-- ==== Sys2Proof/Word.lean ====
section
/-! DEFINITION. The word types of the NSC block (00_scope.md R10, R12): wire and logical bytes, nibbles, and the
32-bit word of a host access. Lengths and indices are plain natural numbers, which never wrap (R12). -/
namespace Sys2Proof

/-- A wire byte or a logical byte (R10). -/
abbrev Byte := BitVec 8

/-- A nibble: the index of the forward cipher table, a frame command, a header nibble (R10). -/
abbrev Nibble := BitVec 4

/-- The word of one host access (20_memory.md R62). -/
abbrev Word := BitVec 32

/-- The sixteen nibbles in rising order: the index range of the forward table (41_cipher.md R130). -/
def nibbles : List Nibble := (List.range 16).map (BitVec.ofNat 4)

end Sys2Proof
end

