-- ==== Sys2Proof/Config.lean ====
section
/-! DEFINITION. What an implementation of the NSC block fixes: the parameter record of 00_scope.md R7 with the
checks of R8, the cipher table's checks (41_cipher.md R131), the suggested default table (R140), the buffer sizes
of the address map, and the values the spec leaves open (free values: opaque, no body). A record is admitted in
Machine/Admission.lean, which adds the correctness gate of R139. -/
namespace Sys2Proof

/-- `HDR_DEC` (42_frame_codec.md R156): which inbound header bytes decode, and to which nibble. The default is the
reverse table; the named alternative also takes masked symbols; any other table is given by its defined entries. -/
inductive HdrDec where
  | rev
  | masked
  | table (entries : List (Byte × Nibble))
deriving DecidableEq, Repr

/-- The parameter record of 00_scope.md R7. Every literal of the source is a field, so that a correction changes a
value and no rule. `readTimeoutMs` and `baud` are carried because R7 lists them: no rule of the block reads them,
since the model keeps no time (43_transport.md R183) and the baud rate belongs to the link's PHY. -/
structure Config where
  /-- `CIPHER_FWD`, the forward table `S` (41_cipher.md R130). -/
  cipherFwd : Vector Byte 16
  hdrDec : HdrDec := .rev
  terminator : Byte := 0x00
  hdrMask : Byte := 0xFC
  replySentinel : BitVec 3 := 7
  txCmd : Nibble := 0
  recvDefaultLen : BitVec 10 := 512
  readTimeoutMs : Nat := 1000
  baud : Nat := 115200
  mainPageReg : Byte := 0x00
  subPageReg : Byte := 0xE7
  nMain : BitVec 3 := 3
  nSub : BitVec 3 := 5
  rrSetupPrefix : Vector Byte 5 := #v[0x13, 0x03, 0x06, 0x01, 0x07]
  rrTrigPrefix : Vector Byte 2 := #v[0x08, 0x07]
  wrPrefix : Vector Byte 3 := #v[0x13, 0x01, 0x04]
  setupAckLen : Nat := 2
  wrAckLen : Nat := 1
deriving DecidableEq, Repr

/-- `TX_CAP`: logical bytes that `TXBUF` holds (R7; the address map R48 fixes it). -/
def txCap : Nat := 512

/-- `RX_CAP`: logical bytes that `RXBUF` holds (R7, R48). -/
def rxCap : Nat := 512

/-- `WIRE_CAP`: wire bytes that `WIREBUF` holds, `2 * 512 + 2` (R7, R48). -/
def wireCap : Nat := 1026

/-- M-WAKE, the host-side message of 30_encoding.md R86. -/
def wakeMessage : List Byte := [0x11, 0x02, 0x64, 0x00, 0x00, 0x00, 0x00]

/-- `S[n]` (41_cipher.md R130). -/
def Config.symbol (c : Config) (n : Nibble) : Byte := c.cipherFwd.get n.toFin

/-- R131 `injective`: the sixteen symbols are distinct. -/
def Config.injective (c : Config) : Bool :=
  nibbles.all fun a => nibbles.all fun b => c.symbol a != c.symbol b || a == b

/-- R131 `not_terminator`: no symbol is the terminator. -/
def Config.notTerminator (c : Config) : Bool :=
  nibbles.all fun n => c.symbol n != c.terminator

/-- R131 `header_not_terminator`: no masked symbol of an even nibble is the terminator. -/
def Config.headerNotTerminator (c : Config) : Bool :=
  nibbles.all fun n => n.getLsbD 0 || (c.symbol n &&& c.hdrMask) != c.terminator

/-- R156: `HDR_DEC_MASKED` is well defined only when no masked value that is not itself a symbol is the masked
value of two nibbles that differ above bit 0. The other choices need no check. DESIGN CHOICE
(notes/assumptions/28.md): a record whose `HDR_DEC` defines the byte 0x00 (a table entry for it, or the masked value
of an odd nibble's symbol below 0x04) is admitted, and 0x00 is then a header by R155 and R156, although 43_transport.md
R182 says that a 0x00 at index 0 fails the header check. -/
def Config.hdrDecDefined (c : Config) : Bool :=
  match c.hdrDec with
  | .masked => nibbles.all fun a => nibbles.all fun b =>
      (c.symbol a &&& c.hdrMask) != (c.symbol b &&& c.hdrMask)
        || nibbles.any (fun n => c.symbol n == (c.symbol a &&& c.hdrMask))
        || (a &&& 0xE) == (b &&& 0xE)
  | _ => true

/-- The checks a parameter record passes before the correctness gate: R8, with the acknowledge lengths inside the
bound of `RxFrame` (43_transport.md R182; 44_register_client.md R219 reads byte 0 of the acknowledge). -/
def Config.wf (c : Config) : Bool :=
  1 ≤ c.nMain.toNat && 1 ≤ c.nSub.toNat
    && c.recvDefaultLen.toNat ≤ rxCap
    && c.mainPageReg != c.subPageReg
    && c.injective && c.notTerminator && c.headerNotTerminator && c.hdrDecDefined
    && c.setupAckLen ≤ rxCap && 1 ≤ c.wrAckLen && c.wrAckLen ≤ rxCap

/-- The suggested default table `S_GK` (41_cipher.md R140). PRESUMED: the spec itself takes it from general
knowledge (notes/assumptions/1.md). -/
def sGk : Vector Byte 16 :=
  #v[0x55, 0x56, 0x59, 0x5A, 0x65, 0x66, 0x69, 0x6A, 0x95, 0x96, 0x99, 0x9A, 0xA5, 0xA6, 0xA9, 0xAA]

/-- The default record: every field at the default of R7, the table `S_GK`, `HDR_DEC = REV`. -/
def Config.default : Config := { cipherFwd := sGk }

/-- The default record passes the checks of R8 and R131. -/
theorem Config.default_wf : Config.default.wf = true := by decide

/-- The default record but for `HDR_DEC = HDR_DEC_MASKED`, the named alternative of R156. -/
def Config.maskedHeaders : Config := { Config.default with hdrDec := .masked }

/-- `HDR_DEC_MASKED` is well defined under `S_GK` (R156, R141). -/
theorem Config.maskedHeaders_wf : Config.maskedHeaders.wf = true := by decide

/-- FREE VALUE. What a buffer byte holds that nothing has written since the last reset (10_state.md R50,
93_implementation_defined.md U1): any value, one for each reset period and each address. -/
opaque Config.unwrittenByte : Nat → Nat → BitVec 8

/-- FREE VALUE. What a host read returns where the spec says it returns any value (20_memory.md R70), and, while reset is
asserted, in the fields on which the spec is silent (notes/assumptions/9.md): one word for each such read. -/
opaque Config.anyRead : Nat → BitVec 32

end Sys2Proof
end

