-- ==== Sys2Proof/Machine/Cipher.lean ====
section
/-! DEFINITION. The nibble-substitution cipher (41_cipher.md): the reverse table, the nibble lanes of a byte, encoding
a byte and decoding a symbol pair. -/
namespace Sys2Proof.Machine

/-- `REV[w]` (R133): the nibble whose symbol is `w`, and none off the image of the forward table. -/
def reverse (c : Config) (w : Byte) : Option Nibble :=
  nibbles.find? fun n => c.symbol n == w

/-- `lo(b)` (R135). -/
def loNibble (b : Byte) : Nibble := b.extractLsb' 0 4

/-- `hi(b)` (R135). -/
def hiNibble (b : Byte) : Nibble := b.extractLsb' 4 4

/-- `join(nl, nh)` (R135): the low lane in bits 3:0, the high lane in bits 7:4. -/
def joinNibbles (nl nh : Nibble) : Byte := nh ++ nl

/-- `EncPair(b)` (R136): the low nibble's symbol, then the high nibble's. -/
def encPair (c : Config) (b : Byte) : List Byte :=
  [c.symbol (loNibble b), c.symbol (hiNibble b)]

/-- `DecPair(wl, wh)` (R137): none where either byte is no symbol. -/
def decPair (c : Config) (wl wh : Byte) : Option Byte :=
  match reverse c wl, reverse c wh with
  | some nl, some nh => some (joinNibbles nl nh)
  | _, _ => none

/-- `HDR_DEC(w)` (R156): under `HDR_DEC_MASKED` a masked value that is no symbol gives its nibble with bit 0
cleared. Where the table defines the byte 0x00, that is a header too (DESIGN CHOICE, notes/assumptions/28.md). -/
def hdrDecode (c : Config) (w : Byte) : Option Nibble :=
  match c.hdrDec with
  | .rev => reverse c w
  | .masked =>
    match reverse c w with
    | some n => some n
    | none => (nibbles.find? fun n => (c.symbol n &&& c.hdrMask) == w).map (· &&& 0xE)
  | .table entries => (entries.find? fun e => e.1 == w).map (·.2)

end Sys2Proof.Machine
end

