-- ==== Sys2Proof/Machine/Errors.lean ====
section
/-! DEFINITION. The error classes and causes of the block (60_exceptions.md R300, R301) and their codes. -/
namespace Sys2Proof.Machine

/-- The error classes of R300 (class 0, NONE, is the absence of an error). -/
inductive ErrClass where
  | io
  | framing
  | protocol
  | pageSelect
  | badReq
deriving DecidableEq, Repr

/-- The causes of R301, over all classes. -/
inductive Cause where
  | rxTimeout
  | txFail
  | short
  | oddLength
  | noTerminator
  | hdrSymbol
  | hdrSentinel
  | dataSymbol
  | truncated
  | setupReplyNonempty
  | budgetExhausted
  | reservedOp
  | lenRange
deriving DecidableEq, Repr

/-- The value of `ERR` for a class (R300). -/
def errCode : ErrClass → BitVec 4
  | .io => 1
  | .framing => 2
  | .protocol => 3
  | .pageSelect => 4
  | .badReq => 5

/-- The class a cause belongs to (R301). -/
def classOf : Cause → ErrClass
  | .rxTimeout => .io
  | .txFail => .io
  | .short => .framing
  | .oddLength => .framing
  | .noTerminator => .framing
  | .hdrSymbol => .framing
  | .hdrSentinel => .framing
  | .dataSymbol => .framing
  | .truncated => .framing
  | .setupReplyNonempty => .protocol
  | .budgetExhausted => .pageSelect
  | .reservedOp => .badReq
  | .lenRange => .badReq

/-- The value of `CAUSE` for a cause, within its class (R301). -/
def causeCode : Cause → Byte
  | .rxTimeout => 1
  | .txFail => 2
  | .short => 1
  | .oddLength => 2
  | .noTerminator => 3
  | .hdrSymbol => 4
  | .hdrSentinel => 5
  | .dataSymbol => 6
  | .truncated => 7
  | .setupReplyNonempty => 1
  | .budgetExhausted => 1
  | .reservedOp => 1
  | .lenRange => 2

end Sys2Proof.Machine
end

