-- ==== Sys2Proof/Machine/Frame.lean ====
section
/-! DEFINITION. The frame codec as pure functions (42_frame_codec.md): header, encoder, decoder with header extraction,
decoder without header; and the bytes of the logical messages (30_encoding.md R82 to R86). -/
namespace Sys2Proof.Machine

/-- The nibble index of a frame command, `(c << 1) & 0xF` (R88): bit 3 of the command is lost. -/
def headerIndex (fcmd : Nibble) : Nibble := fcmd <<< 1

/-- `Header(c)` (R151): the symbol of the index, then the mask. -/
def header (c : Config) (fcmd : Nibble) : Byte := c.symbol (headerIndex fcmd) &&& c.hdrMask

/-- `Encode(c, d)` (R150). -/
def encodeFrame (c : Config) (fcmd : Nibble) (d : List Byte) : List Byte :=
  header c fcmd :: (d.flatMap (encPair c) ++ [c.terminator])

/-- The symbol pairs of a frame's data positions, decoded in order; none as soon as a pair does not decode, or
where a byte has no partner. -/
def decodePairs (c : Config) : List Byte → Option (List Byte)
  | [] => some []
  | [_] => none
  | wl :: wh :: rest =>
    match decPair c wl wh, decodePairs c rest with
    | some b, some out => some (b :: out)
    | _, _ => none

/-- The data positions of a wire sequence: all but the first byte and the last. -/
def frameData (w : List Byte) : List Byte := (w.drop 1).dropLast

/-- `HdrExtract(w0)` (R156): the valid flag and the nibble, `(0, 0)` where the byte is no header symbol. -/
def headerExtract (c : Config) (w0 : Byte) : Bool × Nibble :=
  match hdrDecode c w0 with
  | some h => (true, h)
  | none => (false, 0)

/-- The sentinel check of R157: bits 3..1 of the header nibble are `REPLY_SENTINEL`. -/
def sentinelOk (c : Config) (h : Nibble) : Bool := h.extractLsb' 1 3 == c.replySentinel

/-- `Decode(w)` (R155): the header nibble and the logical bytes, or the first check that fails. Recording the
header in `RXHDR` is the caller's (`recordHeader`). -/
def decodeFrame (c : Config) (w : List Byte) : Except Cause (Nibble × List Byte) :=
  if w.length < 2 then .error .short
  else if w.length % 2 = 1 then .error .oddLength
  else if w.getLast? ≠ some c.terminator then .error .noTerminator
  else
    match hdrDecode c (w.headD 0) with
    | none => .error .hdrSymbol
    | some h =>
      if sentinelOk c h then
        match decodePairs c (frameData w) with
        | some out => .ok (h, out)
        | none => .error .dataSymbol
      else .error .hdrSentinel

/-- `DecodeBody(w)` (R159): `Decode` with the two header checks left out. No operation of the block uses it. -/
def decodeBody (c : Config) (w : List Byte) : Except Cause (List Byte) :=
  if w.length < 2 then .error .short
  else if w.length % 2 = 1 then .error .oddLength
  else if w.getLast? ≠ some c.terminator then .error .noTerminator
  else
    match decodePairs c (frameData w) with
    | some out => .ok out
    | none => .error .dataSymbol

/-- The bytes of M-RRS (R82). -/
def rrsBytes (c : Config) (len reg : Byte) : List Byte := c.rrSetupPrefix.toList ++ [len, reg]

/-- The bytes of M-RRT (R83). -/
def rrtBytes (c : Config) (len : Byte) : List Byte := c.rrTrigPrefix.toList ++ [len]

/-- The bytes of M-WR (R84): byte 3 is the data length plus one. -/
def wrBytes (c : Config) (reg : Byte) (data : List Byte) : List Byte :=
  c.wrPrefix.toList ++ [BitVec.ofNat 8 (data.length + 1), reg] ++ data

end Sys2Proof.Machine
end

