-- ==== Sys2Proof/Machine/Admission.lean ====
section
/-! DEFINITION. Which parameter records are admitted: the correctness gate of 41_cipher.md R139, evaluated on a record
beside the checks of 00_scope.md R8, and the admitted records, each with the proof that it passed. -/
namespace Sys2Proof

open Sys2Proof.Machine

/-- The 256 bytes in rising order: every wire byte, and every logical byte (R10). -/
def allBytes : List Byte := (List.range 256).map (BitVec.ofNat 8)

/-- R134 on one record: `REV[S[n]] = some n` for all 16 nibbles; `REV[w] = some n` implies `S[n] == w` for all 256 wire
bytes; exactly 16 entries of `REV` are valid. -/
def Config.tablesInverse (c : Config) : Bool :=
  nibbles.all (fun n => reverse c (c.symbol n) == some n)
    && allBytes.all (fun w => (reverse c w).all fun n => c.symbol n == w)
    && (allBytes.filter fun w => (reverse c w).isSome).length == 16

/-- R138 on one record: `DecPair(EncPair(b)) = some b` for all 256 logical bytes. -/
def Config.bytesRoundTrip (c : Config) : Bool :=
  allBytes.all fun b =>
    match encPair c b with
    | [wl, wh] => decPair c wl wh == some b
    | _ => false

/-- The correctness gate (R139), whose check of R131 is in `Config.wf`. -/
def Config.gate (c : Config) : Bool := c.tablesInverse && c.bytesRoundTrip

/-- A parameter record with the proof of its checks (R8 lets a model take a record only so) and of the gate (R139: a
table that fails it is refused as a configuration). -/
abbrev Params := { c : Config // c.wf = true ∧ c.gate = true }

/-- The default record passes the gate: R139, run before any claim is made. -/
theorem Config.default_gate : Config.default.gate = true := by decide +kernel

/-- The record with `HDR_DEC_MASKED` passes it too. -/
theorem Config.maskedHeaders_gate : Config.maskedHeaders.gate = true := by decide +kernel

/-- The default record with its proof. -/
def Params.default : Params := ⟨Config.default, Config.default_wf, Config.default_gate⟩

end Sys2Proof
end

