-- ==== Sys2Proof/Machine/State.lean ====
section
/-! DEFINITION. The state of the machine as plain data: every stored field of 10_state.md, the constant state (the
parameter record), and, beside the block, the environment it runs in (the link partner's answers, the turns still to
come). The reasons a step can stop, and the state after reset. -/
namespace Sys2Proof.Machine

open Sys2Proof

/-- The FSM states (R21). Codes 20 to 31 are never entered and have no constructor (93_implementation_defined.md
U7). -/
inductive FsmState where
  | idle
  | faulted
  | encRun
  | decRun
  | sendTx
  | recvRx
  | rrSetupTx
  | rrSetupRx
  | rrTrigTx
  | rrTrigRx
  | wrTx
  | wrRx
  | psWrTx
  | psWrRx
  | psRdSetupTx
  | psRdSetupRx
  | psRdTrigTx
  | psRdTrigRx
  | psCheck
  | checkArgs
deriving DecidableEq, Repr

/-- An answer of the link partner to `draw_rx` (43_transport.md R182): the next inbound byte, or a timeout. -/
inductive RxDraw where
  | byte (b : Byte)
  | timeout
deriving DecidableEq, Repr

/-- An answer of the link partner to `draw_tx` (R180): ok, or failed after `sent` bytes. -/
inductive TxDraw where
  | ok
  | fail (sent : Nat)
deriving DecidableEq, Repr

/-- The link and the partner behind it (R34: environment, not block state). `rx` holds the answers of the draws to
come, in order, and past its end the partner is silent; `arrived` counts its leading entries that are queued at the
block's side, which a reset discards (70_reset_and_hazards.md R343). `tx` holds the transmit answers to come, and
past its end a transmit succeeds. `out` is the outbound stream so far, first byte first. DESIGN CHOICE
(notes/assumptions/3.md, 11.md). -/
structure Link where
  rx : List RxDraw
  arrived : Nat
  tx : List TxDraw
  out : List Byte
deriving DecidableEq, Repr

/-- A host access as the bus carries it (20_memory.md R62): its width in bytes and its byte offset. -/
inductive HostAccess where
  | read (width offset : Nat)
  | write (width offset : Nat) (value : Word)
deriving DecidableEq, Repr

/-- A step of the link partner (00_scope.md R6): it decides further answers, or lets the next entries arrive at the
block's side, or decides a transmit answer. -/
inductive PartnerAct where
  | supply (answers : List RxDraw)
  | arrive (count : Nat)
  | answerTx (answer : TxDraw)
deriving DecidableEq, Repr

/-- Whose turn it is (60_exceptions.md R311: accesses and FSM steps interleave in any order). -/
inductive Turn where
  /-- The host writes the command word to `CMD` and, where it is accepted, waits for the request to end, with no
  other turn in between (30_encoding.md R96: the `CMD` write and the poll that end every operation mnemonic). -/
  | request (word : Word)
  /-- The host makes one access. -/
  | host (access : HostAccess)
  /-- The FSM takes one step. -/
  | fsm
  /-- The link partner takes a step. -/
  | partner (act : PartnerAct)
  /-- The reset input is asserted. In a TX state, `sent` bytes of the frame had left (70_reset_and_hazards.md
  R342). -/
  | assertReset (sent : Nat)
  /-- The reset input is released. -/
  | releaseReset
deriving DecidableEq, Repr

/-- The block's memory: the written bytes of its three buffers by host offset, strictly rising. A byte that is not
listed has not been written since the last reset. -/
abbrev Memory := List Host.Cell

/-- The state of the machine. Field names are those of 10_state.md; the last fields are the environment and the
model's own (INVENTORY.md says which). -/
structure State where
  /-- Constant state: the parameter record (R31, R35). -/
  cfg : Params
  /-- `STATE` (R21). -/
  fsm : FsmState
  /-- `OPL` (R23). -/
  opl : BitVec 4
  /-- `SPACEL` (R23). -/
  spacel : BitVec 1
  /-- `FCMDL` (R23). -/
  fcmdl : Nibble
  /-- `REG` (R38). -/
  reg : Byte
  /-- `LEN` (R39). -/
  len : BitVec 16
  /-- `PAGE` (R40). -/
  page : Byte
  /-- `ATTEMPT` (R24). -/
  attempt : BitVec 3
  /-- `MAIN_VALID` (R25). -/
  mainValid : Bool
  /-- `MAIN_PAGE` (R25). -/
  mainPage : Byte
  /-- `SUB_VALID` (R25). -/
  subValid : Bool
  /-- `SUB_PAGE` (R25). -/
  subPage : Byte
  /-- `TXBUF`, `RXBUF` and `WIREBUF` (R26, R48). -/
  mem : Memory
  /-- `RLEN` (R27). -/
  rlen : BitVec 11
  /-- `STATBYTE` (R27). -/
  statbyte : Byte
  /-- `ACK` (R27). -/
  ack : Byte
  /-- `WLEN` (R27). -/
  wlen : BitVec 11
  /-- `ERR` (R28). -/
  err : BitVec 4
  /-- `CAUSE` (R28). -/
  cause : Byte
  /-- `ERR_REG` (R28). -/
  errReg : Byte
  /-- `ERR_PAGE` (R28). -/
  errPage : Byte
  /-- `ERR_SPACE` (R28). -/
  errSpace : BitVec 1
  /-- `ERR_PHASE` (R28). -/
  errPhase : BitVec 5
  /-- `DONE` (R29). -/
  done : Bool
  /-- `OVERRUN` (R29). -/
  overrun : Bool
  /-- `RXHDR` (R30). -/
  rxhdr : Nibble
  /-- `RXHDR_V` (R30). -/
  rxhdrV : Bool
  /-- The receive timer (R32): whether it fired in the last `RxFrame`; cleared at the start of each. -/
  timerFired : Bool
  /-- `TXF`, the outbound frame of the frame scratch (R33). -/
  txf : List Byte
  /-- The count of bytes received in the current or last `RxFrame`, of the frame scratch (R33). -/
  rxCount : Nat
  /-- Whether the reset input is asserted (70_reset_and_hazards.md R340). -/
  resetIn : Bool
  /-- Environment: the link and the partner (R34). -/
  link : Link
  /-- Environment: the turns to come; when none is left, the FSM has the turn. -/
  sched : List Turn
  /-- Model: the word the last host read returned. -/
  rdata : Word
  /-- Model: the reset period, which keys the unwritten buffer bytes. -/
  period : Nat
  /-- Model: how many reads have returned any value, which keys the next one. -/
  draws : Nat
deriving DecidableEq, Repr

/-- Why the machine stops with a fault. -/
inductive Fault where
  /-- Raised by a host access at an offset outside the 4096 bytes of the register space (20_memory.md R60): no such
  address exists. Safe: nothing can be proved of the block past it. -/
  | outsideWindow
deriving DecidableEq, Repr

/-- Why a step is refused. -/
inductive Refusal where
  /-- Raised by an arm of `exec` whose instruction has no meaning yet. Safe. -/
  | notModelled (mnemonic : String)
  /-- Raised by a host access of a width other than 32 bits: R62 refuses it, a model gives it no step. Safe. -/
  | hostWidth
  /-- Raised by a host access at an offset that is no multiple of 4: R62 refuses it. Safe. -/
  | hostMisaligned
deriving DecidableEq, Repr

/-- The machine right after reset (R50, 70_reset_and_hazards.md R340): every stored field 0, IDLE, no buffer byte
written, and the default parameter record. Around it an idle environment: no inbound byte, no turn to come. -/
def State.reset : State where
  cfg := Params.default
  fsm := .idle
  opl := 0
  spacel := 0
  fcmdl := 0
  reg := 0
  len := 0
  page := 0
  attempt := 0
  mainValid := false
  mainPage := 0
  subValid := false
  subPage := 0
  mem := []
  rlen := 0
  statbyte := 0
  ack := 0
  wlen := 0
  err := 0
  cause := 0
  errReg := 0
  errPage := 0
  errSpace := 0
  errPhase := 0
  done := false
  overrun := false
  rxhdr := 0
  rxhdrV := false
  timerFired := false
  txf := []
  rxCount := 0
  resetIn := false
  link := { rx := [], arrived := 0, tx := [], out := [] }
  sched := []
  rdata := 0
  period := 0
  draws := 0

end Sys2Proof.Machine
end

