-- ==== Sys2Proof/Machine/Ops.lean ====
section
/-! DEFINITION. The named operations over the state: the buffer memory, the FSM's moves, completing a request, taking
an error (the block's one exception entry, 60_exceptions.md R302) and accepting the next request (the return from one,
R307), transmitting and receiving a frame (43_transport.md R180, R182), and reset (70_reset_and_hazards.md R340). -/
namespace Sys2Proof.Machine

open Sys2Proof

/-! ### The FSM state register -/

/-- The code of an FSM state, as `STATUS` and `ERR_PHASE` show it (R21). -/
def fsmCode : FsmState → BitVec 5
  | .idle => 0
  | .faulted => 1
  | .encRun => 2
  | .decRun => 3
  | .sendTx => 4
  | .recvRx => 5
  | .rrSetupTx => 6
  | .rrSetupRx => 7
  | .rrTrigTx => 8
  | .rrTrigRx => 9
  | .wrTx => 10
  | .wrRx => 11
  | .psWrTx => 12
  | .psWrRx => 13
  | .psRdSetupTx => 14
  | .psRdSetupRx => 15
  | .psRdTrigTx => 16
  | .psRdTrigRx => 17
  | .psCheck => 18
  | .checkArgs => 19

/-- The state that follows a TX or RX state within its transaction (44_register_client.md R210, R217;
45_page_select.md R242). The last state of a request, and the states that branch, have no follower here. -/
def followState : FsmState → FsmState
  | .rrSetupTx => .rrSetupRx
  | .rrSetupRx => .rrTrigTx
  | .rrTrigTx => .rrTrigRx
  | .wrTx => .wrRx
  | .psWrTx => .psWrRx
  | .psWrRx => .psRdSetupTx
  | .psRdSetupTx => .psRdSetupRx
  | .psRdSetupRx => .psRdTrigTx
  | .psRdTrigTx => .psRdTrigRx
  | .psRdTrigRx => .psCheck
  | x => x

/-- `goto x` (R11). -/
def goto (x : FsmState) (s : State) : State := { s with fsm := x }

/-- Go on to the follower of the current state. -/
def advance (s : State) : State := goto (followState s.fsm) s

/-- `BUSY` (R22). -/
def busy (s : State) : Bool := s.fsm != .idle && s.fsm != .faulted

/-- Perform a state's action if that state is the current one (R111). -/
def phase (x : FsmState) (action : State → State) (s : State) : State :=
  if s.fsm = x then action s else s

/-! ### The buffers (R26, R48) -/

/-- The offset of `TXBUF` (R48). -/
def txBase : Nat := 0x400

/-- The offset of `RXBUF` (R48). -/
def rxBase : Nat := 0x600

/-- The offset of `WIREBUF` (R48). -/
def wireBase : Nat := 0x800

/-- The first offset past `WIREBUF`'s last byte: from here on nothing is stored (R48). -/
def storageEnd : Nat := wireBase + wireCap

/-- Whether an offset holds a buffer byte. -/
def isStorage (a : Nat) : Bool := txBase ≤ a && a < storageEnd

/-- The byte listed at an offset. -/
def Memory.find? : Memory → Nat → Option Byte
  | [], _ => none
  | c :: m, a => if c.1 = a then some c.2 else Memory.find? m a

/-- List a byte at an offset, in rising order. -/
def Memory.insert : Memory → Nat → Byte → Memory
  | [], a, b => [(a, b)]
  | c :: m, a, b =>
    if a < c.1 then (a, b) :: c :: m
    else if a = c.1 then (a, b) :: m
    else c :: Memory.insert m a b

/-- Write one byte; an offset that holds no storage ignores the write (R48, R49). -/
def Memory.write (m : Memory) (a : Nat) (b : Byte) : Memory :=
  if isStorage a then Memory.insert m a b else m

/-- Write a byte sequence from an offset on. -/
def Memory.writeAll (m : Memory) (a : Nat) : List Byte → Memory
  | [] => m
  | b :: bs => Memory.writeAll (m.write a b) (a + 1) bs

/-- Offsets strictly rising, each past `lo`. -/
def Memory.risingFrom : Nat → Memory → Bool
  | _, [] => true
  | lo, c :: m => lo ≤ c.1 && Memory.risingFrom (c.1 + 1) m

/-- The canonical form: offsets strictly rising, every one a buffer byte. An unlisted byte has no value of its own
(it reads as a free value), so no listed byte can repeat it. -/
def Memory.wf (m : Memory) : Bool := m.risingFrom 0 && m.all fun c => isStorage c.1

/-- The byte at an offset: the written byte; for a buffer byte that nothing has written since the last reset, a free
value (R50, U1); 0 where nothing is stored (R48, R49). -/
def byteAt (s : State) (a : Nat) : Byte :=
  match s.mem.find? a with
  | some b => b
  | none => if isStorage a then Config.unwrittenByte s.period a else 0

/-- `n` bytes from an offset on. -/
def bytesAt (s : State) (a n : Nat) : List Byte := (List.range n).map fun i => byteAt s (a + i)

/-- Write a byte sequence into the buffers. -/
def putBytes (a : Nat) (bs : List Byte) (s : State) : State := { s with mem := s.mem.writeAll a bs }

/-! ### Tracked pages (R25) -/

/-- The page register of a page space (45_page_select.md R241). -/
def pageReg (c : Config) (space : BitVec 1) : Byte := if space = 1 then c.subPageReg else c.mainPageReg

/-- The retry budget of a page space (R241). -/
def budget (c : Config) (space : BitVec 1) : Nat := if space = 1 then c.nSub.toNat else c.nMain.toNat

/-- Clear both valid bits (43_transport.md R189, 45_page_select.md R249). -/
def clearTracking (s : State) : State := { s with mainValid := false, subValid := false }

/-- `tracked_valid[space] <- 0` (R242). -/
def clearSpace (space : BitVec 1) (s : State) : State :=
  { s with
    mainValid := s.mainValid && space == 1
    subValid := s.subValid && space != 1 }

/-- `tracked_valid[space] <- 1` and `tracked_page[space] <- page` (R244). -/
def setSpace (space : BitVec 1) (p : Byte) (s : State) : State :=
  { s with
    mainValid := s.mainValid || space != 1
    mainPage := if space = 1 then s.mainPage else p
    subValid := s.subValid || space == 1
    subPage := if space = 1 then p else s.subPage }

/-- What a register write does to the tracking before its frame is sent (44_register_client.md R220). -/
def clearForWrite (r : Byte) (s : State) : State :=
  { s with
    mainValid := s.mainValid && r != s.cfg.val.mainPageReg
    subValid := s.subValid && r != s.cfg.val.subPageReg }

/-! ### The end of a request and its acceptance -/

/-- Successful completion (40_command_port.md R116). -/
def complete (s : State) : State := { s with done := true, fsm := .idle }

/-- Whether the latched operation uses the link: SEND to SELECT_PAGE (R81). -/
def isLinkOp (op : BitVec 4) : Bool := op == 3 || op == 4 || op == 5 || op == 6 || op == 7

/-- Whether an error entry clears both valid bits (R302, R249). -/
def invalidates (e : Cause) (s : State) : Bool := classOf e != .badReq && isLinkOp s.opl

/-- Error entry (R302): TAKING THE EXCEPTION. Class, cause and phase are recorded, with the register, page and space
the operation had; the result length is zeroed; the tracking is cleared where R249 asks for it; the request is done,
and the FSM goes to FAULTED for an IoError (R303) and to IDLE for any other (R304). Everything else is kept. -/
def raise (e : Cause) (s : State) : State :=
  { s with
    err := errCode (classOf e)
    cause := causeCode e
    errPhase := fsmCode s.fsm
    errReg :=
      if s.opl = 5 ∨ s.opl = 6 then s.reg
      else if s.opl = 7 then pageReg s.cfg.val s.spacel
      else 0
    errPage := if s.opl = 7 then s.page else 0
    errSpace := if s.opl = 7 then s.spacel else 0
    rlen := 0
    mainValid := s.mainValid && !invalidates e s
    subValid := s.subValid && !invalidates e s
    done := true
    fsm := if classOf e = .io then .faulted else .idle }

/-- Acceptance of a request in IDLE (40_command_port.md R110), which is also the RETURN from an error (R307): the
request is latched, the completion, error, result and header fields are cleared, and the FSM enters CHECK_ARGS. -/
def accept (op : BitVec 4) (space : BitVec 1) (fcmd : Nibble) (s : State) : State :=
  { s with
    opl := op
    spacel := space
    fcmdl := fcmd
    done := false
    err := 0
    cause := 0
    errReg := 0
    errPage := 0
    errSpace := 0
    errPhase := 0
    attempt := 0
    rlen := 0
    statbyte := 0
    ack := 0
    rxhdr := 0
    rxhdrV := false
    fsm := .checkArgs }

/-- `OVERRUN <- 1` (R113 to R115). -/
def drop (s : State) : State := { s with overrun := true }

/-- A `CMD` write: ignored while reset is asserted (70_reset_and_hazards.md R340), accepted in IDLE (R110) and then
carried on by `run`, dropped while BUSY (R113) and while FAULTED (R114). -/
def command (op : BitVec 4) (space : BitVec 1) (fcmd : Nibble) (run : State → State) (s : State) : State :=
  if s.resetIn then s
  else if s.fsm = .idle then run (accept op space fcmd s)
  else drop s

/-! ### Transmitting a frame (43_transport.md R180) -/

/-- Put wire bytes on the outbound stream. -/
def putOut (ws : List Byte) (s : State) : State := { s with link := { s.link with out := s.link.out ++ ws } }

/-- The partner's answer to `draw_tx`: the next one held, and ok past the end. -/
def drawTx (l : Link) : TxDraw × Link :=
  match l.tx with
  | [] => (.ok, l)
  | d :: rest => (d, { l with tx := rest })

/-- `TxFrame(ws)` (R180): true for ok, with all bytes out; false for a failed or short write, with a prefix out. The
frame stays in the scratch. -/
def txFrame (ws : List Byte) (s : State) : Bool × State :=
  let s1 := { s with txf := ws, link := (drawTx s.link).2 }
  match (drawTx s.link).1 with
  | .ok => (true, putOut ws s1)
  | .fail sent => (false, putOut (ws.take sent) s1)

/-- A TX state's action: transmit the frame of a message, go on as `next` says, or raise IoError `TX_FAIL`. -/
def transmit (fcmd : Nibble) (d : List Byte) (next : State → State) (s : State) : State :=
  match txFrame (encodeFrame s.cfg.val fcmd d) s with
  | (true, s1) => next s1
  | (false, s1) => raise .txFail s1

/-! ### Receiving a frame (43_transport.md R182 to R184) -/

/-- The receive modes (R184). -/
inductive RxMode where
  | exact
  | upTo
  | empty
deriving DecidableEq, Repr

/-- The reception loop of R182: at most `room` further bytes, `n` received so far. It answers the bytes received,
the draws left over, and whether the frame ended (false for a timeout). A terminator ends the frame at wire index 1
or later. -/
def collect (term : Byte) : (room n : Nat) → List RxDraw → List Byte × List RxDraw × Bool
  | 0, _, q => ([], q, true)
  | _ + 1, _, [] => ([], [], false)
  | _ + 1, _, .timeout :: q => ([], q, false)
  | room + 1, n, .byte b :: q =>
    if 1 ≤ n ∧ b = term then ([b], q, true)
    else
      let r := collect term room (n + 1) q
      (b :: r.1, r.2)

/-- `W`, the most wire bytes a receive of `l` logical bytes takes (R182). -/
def wireWindow (l : Nat) : Nat := 2 * l + 2

/-- What the reception of R182 leaves: the bytes in `WIREBUF`, their count in `WLEN` and in the scratch, the timer,
and the draws not consumed, which stay on the link (20_memory.md R73). -/
def afterCollect (r : List Byte × List RxDraw × Bool) (s : State) : State :=
  { s with
    mem := s.mem.writeAll wireBase r.1
    wlen := BitVec.ofNat 11 r.1.length
    rxCount := r.1.length
    timerFired := !r.2.2
    link := { s.link with
      rx := r.2.1
      arrived := s.link.arrived - (s.link.rx.length - r.2.1.length) } }

/-- Record the extracted header of a decoded wire sequence (42_frame_codec.md R155, R156): before any check, and
not at all for an empty sequence. -/
def recordHeader (w : List Byte) (s : State) : State :=
  { s with
    rxhdrV := match w with
      | [] => s.rxhdrV
      | w0 :: _ => (headerExtract s.cfg.val w0).1
    rxhdr := match w with
      | [] => s.rxhdr
      | w0 :: _ => (headerExtract s.cfg.val w0).2 }

/-- `ModeCheck` (R184): the cause it raises, if any. -/
def modeCheck (l : Nat) (mode : RxMode) (k : Nat) : Option Cause :=
  match mode with
  | .exact => if k = l then none else some .truncated
  | .upTo => none
  | .empty => if k = 0 then none else some .setupReplyNonempty

/-- `RxFrame(L, mode)` (R182): the logical bytes, or the cause it raises, with the state it leaves. -/
def rxFrame (l : Nat) (mode : RxMode) (s : State) : Except Cause (List Byte) × State :=
  let r := collect s.cfg.val.terminator (wireWindow l) 0 s.link.rx
  let s1 := afterCollect r s
  if r.2.2 then
    let s2 := recordHeader r.1 s1
    match decodeFrame s.cfg.val r.1 with
    | .error e => (.error e, s2)
    | .ok (_, out) =>
      match modeCheck l mode out.length with
      | some e => (.error e, s2)
      | none => (.ok out, s2)
  else (.error .rxTimeout, s1)

/-- An RX state's action: receive a frame and go on as `next` says with its logical bytes, or raise the error. -/
def receive (l : Nat) (mode : RxMode) (next : List Byte → State → State) (s : State) : State :=
  match rxFrame l mode s with
  | (.ok out, s1) => next out s1
  | (.error e, s1) => raise e s1

/-! ### Reset (70_reset_and_hazards.md R340 to R345) -/

/-- The reset action (R340): every stored field at its reset value, the buffers unspecified again, the scratch and
the timer cleared, the inbound bytes queued at the block's side discarded (R343), the constants kept (R345). The
rest of the environment goes on. -/
def resetAction (s : State) : State :=
  { State.reset with
    cfg := s.cfg
    resetIn := s.resetIn
    link := { s.link with rx := s.link.rx.drop s.link.arrived, arrived := 0 }
    sched := s.sched
    rdata := s.rdata
    period := s.period + 1
    draws := s.draws }

end Sys2Proof.Machine
end

