-- ==== Sys2Proof/Machine/Operands.lean ====
section
/-! DEFINITION. The operand forms of the operations: which registers and buffer bytes each reads (30_encoding.md R81),
and how it reads them. Operands are stable throughout a request (40_command_port.md R118). -/
namespace Sys2Proof.Machine

open Sys2Proof

/-- `len[7:0]`, the length byte of M-RRS and M-RRT (R82, R83). -/
def lenByte (s : State) : Byte := s.len.setWidth 8

/-- `TXBUF[0..LEN)`, the data operand of ENC, SEND and WRITE_REG. -/
def txPayload (s : State) : List Byte := bytesAt s txBase s.len.toNat

/-- `WIREBUF[0..LEN)`, the data operand of DEC. -/
def wirePayload (s : State) : List Byte := bytesAt s wireBase s.len.toNat

/-- `RecvLength(LEN)` (43_transport.md R188): `LEN` as a signed 16-bit number; a negative one asks for up to the
default length. -/
def recvLength (s : State) : Nat × RxMode :=
  if s.len.msb then (s.cfg.val.recvDefaultLen.toNat, .upTo) else (s.len.toNat, .exact)

/-- The page register SELECT_PAGE writes and reads back (45_page_select.md R241). -/
def selectReg (s : State) : Byte := pageReg s.cfg.val s.spacel

end Sys2Proof.Machine
end

