-- ==== Sys2Proof/Machine/CommandPort.lean ====
section
/-! DEFINITION. The argument check every request passes (40_command_port.md R112), and a plain `CMD` write (R110,
R113, R114). -/
namespace Sys2Proof.Machine

open Sys2Proof

/-- Go on to a state, or raise BADREQ `LEN_RANGE` where the length is out of range (R112). -/
def checkLen (inRange : Bool) (x : FsmState) (s : State) : State :=
  if inRange then goto x s else raise .lenRange s

/-- CHECK_ARGS (R112): the operation is checked before the length. For RECV a `LEN` with bit 15 set is negative and
legal (43_transport.md R188). -/
def checkArgs (s : State) : State :=
  match s.opl.toNat with
  | 1 => checkLen (s.len.toNat ≤ txCap) .encRun s
  | 2 => checkLen (s.len.toNat ≤ wireCap) .decRun s
  | 3 => checkLen (s.len.toNat ≤ txCap) .sendTx s
  | 4 => checkLen (s.len.msb || s.len.toNat ≤ rxCap) .recvRx s
  | 5 => checkLen (s.len.toNat ≤ 255) .rrSetupTx s
  | 6 => checkLen (s.len.toNat ≤ 254) .wrTx s
  | 7 => goto .psWrTx { s with attempt := 1 }
  | _ => raise .reservedOp s

/-- One host write of `v` to `CMD` (R110, R113, R114): acceptance alone, after which the FSM has its own turns. -/
def writeCommand (v : Word) (s : State) : State :=
  command (v.extractLsb' 0 4) (v.extractLsb' 4 1) (v.extractLsb' 8 4) id s

end Sys2Proof.Machine
end

