-- ==== Sys2Proof/Machine/Codec.lean ====
section
/-! DEFINITION. ENC and DEC (42_frame_codec.md R162, R163): the frame codec without link traffic. -/
namespace Sys2Proof.Machine

open Sys2Proof

/-- ENC_RUN (R162): the frame of `TXBUF[0..LEN)` into `WIREBUF`, its length into `WLEN` and `RLEN`. -/
def encRun (s : State) : State :=
  let ws := encodeFrame s.cfg.val s.fcmdl (txPayload s)
  complete { putBytes wireBase ws s with
    wlen := BitVec.ofNat 11 ws.length
    rlen := BitVec.ofNat 11 ws.length }

/-- DEC_RUN (R163): the header of `WIREBUF[0..LEN)` recorded, then its logical bytes into `RXBUF`, or the
FramingError. -/
def decRun (s : State) : State :=
  let w := wirePayload s
  let s1 := recordHeader w s
  match decodeFrame s.cfg.val w with
  | .ok (_, out) => complete { putBytes rxBase out s1 with rlen := BitVec.ofNat 11 out.length }
  | .error e => raise e s1

/-- ENC (R162), the whole request. -/
def execEnc (space : BitVec 1) (fcmd : Nibble) (s : State) : Host.Outcome State Fault Refusal :=
  .next (command 1 space fcmd (fun s => phase .encRun encRun (phase .checkArgs checkArgs s)) s)

/-- DEC (R163), the whole request. -/
def execDec (space : BitVec 1) (fcmd : Nibble) (s : State) : Host.Outcome State Fault Refusal :=
  .next (command 2 space fcmd (fun s => phase .decRun decRun (phase .checkArgs checkArgs s)) s)

end Sys2Proof.Machine
end

