-- ==== Sys2Proof/Machine/Messages.lean ====
section
/-! DEFINITION. The rows of the logical messages and of the wire frame: each is the one step of the TX or RX state that
carries it (30_encoding.md R82 to R87; 44_register_client.md R211 to R219; 45_page_select.md R242; 43_transport.md
R186). In a state that carries it not, a row is not performed and changes nothing: a state performs its own action
only (10_state.md R21), no rule emits the message elsewhere (R93), and in IDLE and FAULTED there is no step (R111).
DEDUCED (notes/assumptions/7.md). -/
namespace Sys2Proof.Machine

open Sys2Proof

/-! ### Outbound -/

/-- Transmit M-RRS under `TX_CMD` and go on to the setup acknowledge (R82, R211, R242). -/
def sendRrs (len r : Byte) (s : State) : State :=
  transmit s.cfg.val.txCmd (rrsBytes s.cfg.val len r) advance s

/-- Transmit M-RRT under `TX_CMD` and go on to the trigger reply (R83, R213, R242). -/
def sendRrt (len : Byte) (s : State) : State :=
  transmit s.cfg.val.txCmd (rrtBytes s.cfg.val len) advance s

/-- Transmit M-WR under `TX_CMD` and go on to the acknowledge (R84, R218, R242). -/
def sendWr (r : Byte) (data : List Byte) (s : State) : State :=
  transmit s.cfg.val.txCmd (wrBytes s.cfg.val r data) advance s

/-- SEND_TX (43_transport.md R186): transmit one frame, clear both valid bits (R189), complete. -/
def sendFrame (fcmd : Nibble) (d : List Byte) (s : State) : State :=
  transmit fcmd d (fun s1 => complete (clearTracking s1)) s

/-! ### Inbound -/

/-- Receive M-SACK: `RxFrame(SETUP_ACK_LEN, EMPTY)`, then on to the trigger (44_register_client.md R212). -/
def receiveSack (s : State) : State :=
  receive s.cfg.val.setupAckLen .empty (fun _ s1 => advance s1) s

/-- What a trigger reply of `len + 1` bytes leaves (R214, R242): all bytes in `RXBUF`, `RLEN` counting the payload,
the last byte in `STATBYTE`, uninterpreted (R215). -/
def storeReply (len : Byte) (out : List Byte) (s : State) : State :=
  { putBytes rxBase out s with
    rlen := BitVec.ofNat 11 len.toNat
    statbyte := out.getD len.toNat 0 }

/-- Receive M-TREP: `RxFrame(len + 1, EXACT)`. In RR_TRIG_RX the request completes (R214); in PS_RD_TRIG_RX the
check follows (R242). -/
def receiveTrep (len : Byte) (s : State) : State :=
  receive (len.toNat + 1) .exact
    (fun out s1 =>
      if s1.fsm = .rrTrigRx then complete (storeReply len out s1) else advance (storeReply len out s1)) s

/-- Receive M-WACK: `RxFrame(WR_ACK_LEN, EXACT)`, its first byte to `ACK`, unchecked. In WR_RX it goes to `RXBUF[0]`
too and the request completes (R219, R217); in PS_WR_RX the read-back follows (R242). -/
def receiveWack (s : State) : State :=
  receive s.cfg.val.wrAckLen .exact
    (fun out s1 =>
      let s2 := { s1 with ack := out.headD 0 }
      if s1.fsm = .wrRx then complete { putBytes rxBase (out.take 1) s2 with rlen := 1 } else advance s2) s

/-! ### The rows -/

/-- M-RRS (R82): sent in RR_SETUP_TX and PS_RD_SETUP_TX. -/
def execMRrs (len r : Byte) (s : State) : Host.Outcome State Fault Refusal :=
  .next (if s.fsm = .rrSetupTx ∨ s.fsm = .psRdSetupTx then sendRrs len r s else s)

/-- M-RRT (R83): sent in RR_TRIG_TX and PS_RD_TRIG_TX. -/
def execMRrt (len : Byte) (s : State) : Host.Outcome State Fault Refusal :=
  .next (if s.fsm = .rrTrigTx ∨ s.fsm = .psRdTrigTx then sendRrt len s else s)

/-- M-WR (R84): sent in WR_TX, which first clears the tracking of a page register (R220), and in PS_WR_TX, which
first clears the valid bit of the space being selected (R242). -/
def execMWr (r : Byte) (data : List Byte) (s : State) : Host.Outcome State Fault Refusal :=
  .next (match s.fsm with
    | .wrTx => sendWr r data (clearForWrite r s)
    | .psWrTx => sendWr r data (clearSpace s.spacel s)
    | _ => s)

/-- M-SACK (R85): received in RR_SETUP_RX and PS_RD_SETUP_RX. -/
def execMSack (s : State) : Host.Outcome State Fault Refusal :=
  .next (if s.fsm = .rrSetupRx ∨ s.fsm = .psRdSetupRx then receiveSack s else s)

/-- M-TREP (R85): received in RR_TRIG_RX and PS_RD_TRIG_RX. -/
def execMTrep (len : Byte) (s : State) : Host.Outcome State Fault Refusal :=
  .next (if s.fsm = .rrTrigRx ∨ s.fsm = .psRdTrigRx then receiveTrep len s else s)

/-- M-WACK (R85): received in WR_RX and PS_WR_RX. -/
def execMWack (s : State) : Host.Outcome State Fault Refusal :=
  .next (if s.fsm = .wrRx ∨ s.fsm = .psWrRx then receiveWack s else s)

/-- M-WAKE (R86): the host sends it with SEND 0 (48_host_session.md R264), so SEND_TX carries it, under frame
command 0. -/
def execMWake (s : State) : Host.Outcome State Fault Refusal :=
  .next (if s.fsm = .sendTx then sendFrame 0 wakeMessage s else s)

/-- F-FRAME (R87): the frame SEND_TX transmits (43_transport.md R186). -/
def execFFrame (fcmd : Nibble) (d : List Byte) (s : State) : Host.Outcome State Fault Refusal :=
  .next (if s.fsm = .sendTx then sendFrame fcmd d s else s)

end Sys2Proof.Machine
end

