-- ==== Sys2Proof/Machine/PageSelect.lean ====
section
/-! DEFINITION. SELECT_PAGE (45_page_select.md R240 to R250): write the page, read it back, compare, and try again up to
the budget of the space. -/
namespace Sys2Proof.Machine

open Sys2Proof

/-- PS_WR_TX (R242): the valid bit of the space cleared, then M-WR with the page as its one data byte. -/
def psWrTx (s : State) : State := sendWr (selectReg s) [s.page] (clearSpace s.spacel s)

/-- PS_WR_RX (R242). -/
def psWrRx (s : State) : State := receiveWack s

/-- PS_RD_SETUP_TX (R242). -/
def psRdSetupTx (s : State) : State := sendRrs 1 (selectReg s) s

/-- PS_RD_SETUP_RX (R242). -/
def psRdSetupRx (s : State) : State := receiveSack s

/-- PS_RD_TRIG_TX (R242). -/
def psRdTrigTx (s : State) : State := sendRrt 1 s

/-- PS_RD_TRIG_RX (R242). -/
def psRdTrigRx (s : State) : State := receiveTrep 1 s

/-- PS_CHECK (R243 to R245): success on equality, another attempt within the budget, or PageSelectError. -/
def psCheck (s : State) : State :=
  if byteAt s rxBase = s.page then complete (setSpace s.spacel s.page s)
  else if s.attempt.toNat < budget s.cfg.val s.spacel then
    goto .psWrTx { s with attempt := s.attempt + 1 }
  else raise .budgetExhausted s

/-- One attempt: the seven states of R242 in order. -/
def psAttempt (s : State) : State :=
  phase .psCheck psCheck
    (phase .psRdTrigRx psRdTrigRx
      (phase .psRdTrigTx psRdTrigTx
        (phase .psRdSetupRx psRdSetupRx
          (phase .psRdSetupTx psRdSetupTx
            (phase .psWrRx psWrRx
              (phase .psWrTx psWrTx s))))))

/-- Up to `n` attempts: after the last one the FSM is in IDLE or FAULTED, where no state's action is taken. -/
def psAttempts : Nat → State → State
  | 0, s => s
  | n + 1, s => psAttempts n (psAttempt s)

/-- SELECT_PAGE (R240), the whole request. A budget is at most 7 (00_scope.md R8). -/
def execSelectPage (space : BitVec 1) (fcmd : Nibble) (s : State) : Host.Outcome State Fault Refusal :=
  .next (command 7 space fcmd (fun s => psAttempts 7 (phase .checkArgs checkArgs s)) s)

end Sys2Proof.Machine
end

