-- ==== Sys2Proof/Machine/RegisterClient.lean ====
section
/-! DEFINITION. The register transactions READ_REG and WRITE_REG (44_register_client.md R210, R217). An error in any
state ends the transaction: the states after it are not reached. -/
namespace Sys2Proof.Machine

open Sys2Proof

/-- RR_SETUP_TX (R211). -/
def rrSetupTx (s : State) : State := sendRrs (lenByte s) s.reg s

/-- RR_SETUP_RX (R212). -/
def rrSetupRx (s : State) : State := receiveSack s

/-- RR_TRIG_TX (R213). -/
def rrTrigTx (s : State) : State := sendRrt (lenByte s) s

/-- RR_TRIG_RX (R214). -/
def rrTrigRx (s : State) : State := receiveTrep (lenByte s) s

/-- WR_TX (R218), the tracking of a page register cleared before the frame is sent (R220). -/
def wrTx (s : State) : State := sendWr s.reg (txPayload s) (clearForWrite s.reg s)

/-- WR_RX (R219). -/
def wrRx (s : State) : State := receiveWack s

/-- READ_REG (R210), the whole request. -/
def execReadReg (space : BitVec 1) (fcmd : Nibble) (s : State) : Host.Outcome State Fault Refusal :=
  .next (command 5 space fcmd
    (fun s =>
      phase .rrTrigRx rrTrigRx
        (phase .rrTrigTx rrTrigTx
          (phase .rrSetupRx rrSetupRx
            (phase .rrSetupTx rrSetupTx
              (phase .checkArgs checkArgs s))))) s)

/-- WRITE_REG (R217), the whole request. -/
def execWriteReg (space : BitVec 1) (fcmd : Nibble) (s : State) : Host.Outcome State Fault Refusal :=
  .next (command 6 space fcmd
    (fun s => phase .wrRx wrRx (phase .wrTx wrTx (phase .checkArgs checkArgs s))) s)

end Sys2Proof.Machine
end

