-- ==== Sys2Proof/Machine/Reserved.lean ====
section
/-! DEFINITION. The reserved operations (30_encoding.md R90): the request is accepted and ends at once with BADREQ
`RESERVED_OP`, which CHECK_ARGS raises (40_command_port.md R112). Each has its own definition. -/
namespace Sys2Proof.Machine

open Sys2Proof

/-- Reserved `OP` 0x0 (R90). -/
def execReserved0 (space : BitVec 1) (fcmd : Nibble) (s : State) : Host.Outcome State Fault Refusal :=
  .next (command 0x0 space fcmd (phase .checkArgs checkArgs) s)

/-- Reserved `OP` 0x8 (R90). -/
def execReserved8 (space : BitVec 1) (fcmd : Nibble) (s : State) : Host.Outcome State Fault Refusal :=
  .next (command 0x8 space fcmd (phase .checkArgs checkArgs) s)

/-- Reserved `OP` 0x9 (R90). -/
def execReserved9 (space : BitVec 1) (fcmd : Nibble) (s : State) : Host.Outcome State Fault Refusal :=
  .next (command 0x9 space fcmd (phase .checkArgs checkArgs) s)

/-- Reserved `OP` 0xA (R90). -/
def execReservedA (space : BitVec 1) (fcmd : Nibble) (s : State) : Host.Outcome State Fault Refusal :=
  .next (command 0xA space fcmd (phase .checkArgs checkArgs) s)

/-- Reserved `OP` 0xB (R90). -/
def execReservedB (space : BitVec 1) (fcmd : Nibble) (s : State) : Host.Outcome State Fault Refusal :=
  .next (command 0xB space fcmd (phase .checkArgs checkArgs) s)

/-- Reserved `OP` 0xC (R90). -/
def execReservedC (space : BitVec 1) (fcmd : Nibble) (s : State) : Host.Outcome State Fault Refusal :=
  .next (command 0xC space fcmd (phase .checkArgs checkArgs) s)

/-- Reserved `OP` 0xD (R90). -/
def execReservedD (space : BitVec 1) (fcmd : Nibble) (s : State) : Host.Outcome State Fault Refusal :=
  .next (command 0xD space fcmd (phase .checkArgs checkArgs) s)

/-- Reserved `OP` 0xE (R90). -/
def execReservedE (space : BitVec 1) (fcmd : Nibble) (s : State) : Host.Outcome State Fault Refusal :=
  .next (command 0xE space fcmd (phase .checkArgs checkArgs) s)

/-- Reserved `OP` 0xF (R90). -/
def execReservedF (space : BitVec 1) (fcmd : Nibble) (s : State) : Host.Outcome State Fault Refusal :=
  .next (command 0xF space fcmd (phase .checkArgs checkArgs) s)

end Sys2Proof.Machine
end

