-- ==== Sys2Proof/Machine/Transport.lean ====
section
/-! DEFINITION. SEND and RECV (43_transport.md R186, R187): one raw frame out, one raw frame in. -/
namespace Sys2Proof.Machine

open Sys2Proof

/-- SEND_TX (R186): the frame of `TXBUF[0..LEN)` under the latched frame command. -/
def sendTx (s : State) : State := sendFrame s.fcmdl (txPayload s) s

/-- RECV_RX (R187): one frame of the length and mode of R188 into `RXBUF`. -/
def recvRx (s : State) : State :=
  receive (recvLength s).1 (recvLength s).2
    (fun out s1 => complete { putBytes rxBase out s1 with rlen := BitVec.ofNat 11 out.length }) s

/-- SEND (R186), the whole request. -/
def execSend (space : BitVec 1) (fcmd : Nibble) (s : State) : Host.Outcome State Fault Refusal :=
  .next (command 3 space fcmd (fun s => phase .sendTx sendTx (phase .checkArgs checkArgs s)) s)

/-- RECV (R187), the whole request. -/
def execRecv (space : BitVec 1) (fcmd : Nibble) (s : State) : Host.Outcome State Fault Refusal :=
  .next (command 4 space fcmd (fun s => phase .recvRx recvRx (phase .checkArgs checkArgs s)) s)

end Sys2Proof.Machine
end

