-- ==== Sys2Proof/Syntax.lean ====
section
/-! DEFINITION. The abstract syntax: one constructor per row of spec/opcode_table.json, at the three encoding levels
of 30_encoding.md (host command words, logical messages, the wire frame), and the codes that spell them. -/
namespace Sys2Proof

/-- An instruction: one constructor per row of the opcode table. A host command (R80, R81) carries `SPACE` and
`FCMD` for every operation, because acceptance latches both whether or not the operation reads them (R110). -/
inductive Instr where
  /-- ENC (R162). -/
  | enc (space : BitVec 1) (fcmd : Nibble)
  /-- DEC (R163). -/
  | dec (space : BitVec 1) (fcmd : Nibble)
  /-- SEND (R186). -/
  | send (space : BitVec 1) (fcmd : Nibble)
  /-- RECV (R187). -/
  | recv (space : BitVec 1) (fcmd : Nibble)
  /-- READ_REG (R210). -/
  | readReg (space : BitVec 1) (fcmd : Nibble)
  /-- WRITE_REG (R217). -/
  | writeReg (space : BitVec 1) (fcmd : Nibble)
  /-- SELECT_PAGE (R240). -/
  | selectPage (space : BitVec 1) (fcmd : Nibble)
  /-- Reserved `OP` 0x0 (R90). -/
  | reserved0 (space : BitVec 1) (fcmd : Nibble)
  /-- Reserved `OP` 0x8 (R90). -/
  | reserved8 (space : BitVec 1) (fcmd : Nibble)
  /-- Reserved `OP` 0x9 (R90). -/
  | reserved9 (space : BitVec 1) (fcmd : Nibble)
  /-- Reserved `OP` 0xA (R90). -/
  | reservedA (space : BitVec 1) (fcmd : Nibble)
  /-- Reserved `OP` 0xB (R90). -/
  | reservedB (space : BitVec 1) (fcmd : Nibble)
  /-- Reserved `OP` 0xC (R90). -/
  | reservedC (space : BitVec 1) (fcmd : Nibble)
  /-- Reserved `OP` 0xD (R90). -/
  | reservedD (space : BitVec 1) (fcmd : Nibble)
  /-- Reserved `OP` 0xE (R90). -/
  | reservedE (space : BitVec 1) (fcmd : Nibble)
  /-- Reserved `OP` 0xF (R90). -/
  | reservedF (space : BitVec 1) (fcmd : Nibble)
  /-- M-RRS, the read-setup message (R82). -/
  | mRrs (len reg : Byte)
  /-- M-RRT, the read-trigger message (R83). -/
  | mRrt (len : Byte)
  /-- M-WR, the register-write message (R84). -/
  | mWr (reg : Byte) (data : List Byte)
  /-- M-SACK, the empty setup acknowledge (R85): it is received. -/
  | mSack
  /-- M-TREP, the trigger reply of `len` payload bytes and a status byte (R85): it is received. -/
  | mTrep (len : Byte)
  /-- M-WACK, the write acknowledge (R85): it is received. -/
  | mWack
  /-- M-WAKE, the wake message, which the host sends with SEND (R86). -/
  | mWake
  /-- F-FRAME, the wire frame of a logical message under a frame command (R87). -/
  | fFrame (fcmd : Nibble) (data : List Byte)
deriving DecidableEq, Repr

/-- Which reply message an RX state expects (R85). The reply rows of the table have no bits of their own: what
selects them is the message sent before. -/
inductive Reply where
  | afterSetup
  | afterTrigger (len : Byte)
  | afterWrite
deriving DecidableEq, Repr

/-- A code at one of the encoding levels of 30_encoding.md: a host command word, an outbound logical message, an
expected reply, or a wire frame. -/
inductive Code where
  | command (word : Word)
  | message (bytes : List Byte)
  | reply (expected : Reply)
  | wire (bytes : List Byte)
deriving DecidableEq, Repr

/-- Why the decoder refuses a code. -/
inductive DecodeError where
  /-- The bytes are none of the messages of R82 to R84 and R86. -/
  | notAMessage
  /-- A wire frame has fewer than two bytes or an odd number of them (R87). -/
  | frameLength
  /-- The last byte of a wire frame is not the terminator (R87). -/
  | frameTerminator
  /-- The header byte is that of no frame command (R88). -/
  | frameHeader
  /-- A data byte of a wire frame is not a symbol (R92). -/
  | frameSymbol
deriving DecidableEq, Repr

end Sys2Proof
end

