-- ==== Sys2Proof/Machine/Dispatch.lean ====
section
/-! DEFINITION. The meaning of every instruction, one arm per constructor of Instr. -/
namespace Sys2Proof.Machine

open Sys2Proof

def exec (i : Instr) (s : State) : Host.Outcome State Fault Refusal :=
  match i with
  | .enc space fcmd => Sys2Proof.Machine.execEnc space fcmd s
  | .dec space fcmd => Sys2Proof.Machine.execDec space fcmd s
  | .send space fcmd => Sys2Proof.Machine.execSend space fcmd s
  | .recv space fcmd => Sys2Proof.Machine.execRecv space fcmd s
  | .readReg space fcmd => Sys2Proof.Machine.execReadReg space fcmd s
  | .writeReg space fcmd => Sys2Proof.Machine.execWriteReg space fcmd s
  | .selectPage space fcmd => Sys2Proof.Machine.execSelectPage space fcmd s
  | .reserved0 space fcmd => Sys2Proof.Machine.execReserved0 space fcmd s
  | .reserved8 space fcmd => Sys2Proof.Machine.execReserved8 space fcmd s
  | .reserved9 space fcmd => Sys2Proof.Machine.execReserved9 space fcmd s
  | .reservedA space fcmd => Sys2Proof.Machine.execReservedA space fcmd s
  | .reservedB space fcmd => Sys2Proof.Machine.execReservedB space fcmd s
  | .reservedC space fcmd => Sys2Proof.Machine.execReservedC space fcmd s
  | .reservedD space fcmd => Sys2Proof.Machine.execReservedD space fcmd s
  | .reservedE space fcmd => Sys2Proof.Machine.execReservedE space fcmd s
  | .reservedF space fcmd => Sys2Proof.Machine.execReservedF space fcmd s
  | .mRrs len reg => Sys2Proof.Machine.execMRrs len reg s
  | .mRrt len => Sys2Proof.Machine.execMRrt len s
  | .mWr reg data => Sys2Proof.Machine.execMWr reg data s
  | .mSack => Sys2Proof.Machine.execMSack s
  | .mTrep len => Sys2Proof.Machine.execMTrep len s
  | .mWack => Sys2Proof.Machine.execMWack s
  | .mWake => Sys2Proof.Machine.execMWake s
  | .fFrame fcmd data => Sys2Proof.Machine.execFFrame fcmd data s

end Sys2Proof.Machine
end

