-- ==== Sys2Proof/Machine/Flags.lean ====
section
/-! DEFINITION. What the readable registers show (10_state.md R36 to R49): every status flag and field at its bit
places, the parameter registers, the cipher window and the buffer words, little-endian (20_memory.md R61). -/
namespace Sys2Proof.Machine

open Sys2Proof

/-- `CMD` read back: the latched request (R36). -/
def cmdWord (s : State) : Word :=
  (0 : BitVec 20) ++ s.fcmdl ++ (0 : BitVec 3) ++ s.spacel ++ s.opl

/-- `STATUS` (R37), with `BUSY` and `FAULTED` derived (R22). -/
def statusWord (s : State) : Word :=
  fsmCode s.fsm ++ (0 : BitVec 3) ++ s.rxhdr ++ BitVec.ofBool s.rxhdrV ++ s.attempt ++ s.cause ++ s.err
    ++ BitVec.ofBool s.overrun ++ BitVec.ofBool (s.fsm == .faulted) ++ BitVec.ofBool s.done
    ++ BitVec.ofBool (busy s)

/-- `REG` (R38). -/
def regWord (s : State) : Word := (0 : BitVec 24) ++ s.reg

/-- `LEN` (R39). -/
def lenWord (s : State) : Word := (0 : BitVec 16) ++ s.len

/-- `PAGE` (R40). -/
def pageWord (s : State) : Word := (0 : BitVec 24) ++ s.page

/-- `RESULT` (R41). -/
def resultWord (s : State) : Word := s.ack ++ s.statbyte ++ (0 : BitVec 5) ++ s.rlen

/-- `ERRINFO` (R42). -/
def errInfoWord (s : State) : Word :=
  (0 : BitVec 3) ++ s.errPhase ++ (0 : BitVec 7) ++ s.errSpace ++ s.errPage ++ s.errReg

/-- `PAGETRK` (R43). -/
def pageTrkWord (s : State) : Word :=
  (0 : BitVec 7) ++ BitVec.ofBool s.subValid ++ s.subPage
    ++ (0 : BitVec 7) ++ BitVec.ofBool s.mainValid ++ s.mainPage

/-- `PARAM0` (R44). -/
def param0Word (c : Config) : Word :=
  c.hdrMask ++ c.subPageReg ++ c.mainPageReg ++ (0 : BitVec 1) ++ c.nSub ++ (0 : BitVec 1) ++ c.nMain

/-- `PARAM1` (R45). -/
def param1Word (c : Config) : Word :=
  (0 : BitVec 1) ++ c.replySentinel ++ (0 : BitVec 1) ++ BitVec.ofNat 11 wireCap ++ (0 : BitVec 5)
    ++ BitVec.ofNat 11 rxCap

/-- `WLENR` (R46). -/
def wlenWord (s : State) : Word := (0 : BitVec 21) ++ s.wlen

/-- Four bytes as a little-endian word (R61): the first byte in bits 7:0. -/
def wordOf (b0 b1 b2 b3 : Byte) : Word := b3 ++ b2 ++ b1 ++ b0

/-- The bytes of a word, little-endian (R61). -/
def bytesOf (v : Word) : List Byte :=
  [v.extractLsb' 0 8, v.extractLsb' 8 8, v.extractLsb' 16 8, v.extractLsb' 24 8]

/-- The `CIPHER` window's word at byte `k` of the window (R47, R61). -/
def cipherWord (c : Config) (k : Nat) : Word :=
  wordOf (c.symbol (BitVec.ofNat 4 k)) (c.symbol (BitVec.ofNat 4 (k + 1)))
    (c.symbol (BitVec.ofNat 4 (k + 2))) (c.symbol (BitVec.ofNat 4 (k + 3)))

/-- The buffer word at an offset (R48, R61); bytes that hold no storage are 0. -/
def bufferWord (s : State) (a : Nat) : Word :=
  wordOf (byteAt s a) (byteAt s (a + 1)) (byteAt s (a + 2)) (byteAt s (a + 3))

/-- The words of the register window by offset (R36 to R48); a reserved offset reads 0 (R49). -/
def readWord (s : State) (a : Nat) : Word :=
  if a = 0x000 then cmdWord s
  else if a = 0x004 then statusWord s
  else if a = 0x008 then regWord s
  else if a = 0x00C then lenWord s
  else if a = 0x010 then pageWord s
  else if a = 0x014 then resultWord s
  else if a = 0x018 then errInfoWord s
  else if a = 0x01C then pageTrkWord s
  else if a = 0x020 then param0Word s.cfg.val
  else if a = 0x024 then param1Word s.cfg.val
  else if a = 0x028 then wlenWord s
  else if 0x040 ≤ a ∧ a < 0x050 then cipherWord s.cfg.val (a - 0x040)
  else if txBase ≤ a ∧ a < 0xC04 then bufferWord s a
  else 0

/-- The bits of the word at an offset that a field or a storage byte takes; every other bit is reserved and reads 0 (the
tables of R36 to R46, R90 for `CMD`, R48 for the two bytes past `WIREBUF`, R49 for the reserved offsets). -/
def fieldMask (a : Nat) : Word :=
  if a = 0x000 then 0x00000F1F
  else if a = 0x004 then 0xF8FFFFFF
  else if a = 0x008 then 0x000000FF
  else if a = 0x00C then 0x0000FFFF
  else if a = 0x010 then 0x000000FF
  else if a = 0x014 then 0xFFFF07FF
  else if a = 0x018 then 0x1F01FFFF
  else if a = 0x01C then 0x01FF01FF
  else if a = 0x020 then 0xFFFFFF77
  else if a = 0x024 then 0x77FF07FF
  else if a = 0x028 then 0x000007FF
  else if 0x040 ≤ a ∧ a < 0x050 then 0xFFFFFFFF
  else if a = 0xC00 then 0x0000FFFF
  else if txBase ≤ a ∧ a < 0xC00 then 0xFFFFFFFF
  else 0

/-- The registers and buffers whose reads return any value while BUSY (20_memory.md R70): RESULT, ERRINFO, PAGETRK,
WLENR, RXBUF and WIREBUF, each as a whole word (DESIGN CHOICE, notes/assumptions/26.md). -/
def unstableOffset (a : Nat) : Bool :=
  a == 0x014 || a == 0x018 || a == 0x01C || a == 0x028 || (rxBase ≤ a && a < 0xC04)

/-- The offsets that read exactly at any time, while reset is asserted too: `STATUS`, always exact (20_memory.md R71,
70_reset_and_hazards.md R351), the configuration, which reset does not touch (R35, R345), and the reserved offsets
(R49). -/
def exactInReset (a : Nat) : Bool :=
  a == 0x004 || a == 0x020 || a == 0x024 || (0x02C ≤ a && a < txBase) || 0xC04 ≤ a

end Sys2Proof.Machine
end

