-- ==== Sys2Proof/WellFormed.lean ====
section
/-! DEFINITION. When an instruction of the syntax stands for something the block's encodings can spell: M-WR carries
at most 254 data bytes (R84), a frame at most `TX_CAP` logical bytes (R150). Every other operand is a field of
exactly its width. The checks on a parameter record are `Config.wf`. -/
namespace Sys2Proof

/-- The largest data string of M-WR: the largest `m` whose `m + 1` fits byte 3 (R84). -/
def mWrMax : Nat := 254

/-- The well-formed instructions. -/
def Instr.wf : Instr → Bool
  | .enc _ _ => true
  | .dec _ _ => true
  | .send _ _ => true
  | .recv _ _ => true
  | .readReg _ _ => true
  | .writeReg _ _ => true
  | .selectPage _ _ => true
  | .reserved0 _ _ => true
  | .reserved8 _ _ => true
  | .reserved9 _ _ => true
  | .reservedA _ _ => true
  | .reservedB _ _ => true
  | .reservedC _ _ => true
  | .reservedD _ _ => true
  | .reservedE _ _ => true
  | .reservedF _ _ => true
  | .mRrs _ _ => true
  | .mRrt _ => true
  | .mWr _ data => data.length ≤ mWrMax
  | .mSack => true
  | .mTrep _ => true
  | .mWack => true
  | .mWake => true
  | .fFrame _ data => data.length ≤ txCap

end Sys2Proof
end

