-- ==== Sys2Proof/Decode.lean ====
section
/-! DEFINITION. The decoder, total on codes of every level and rejecting by name, and after it the encoder, both from
the encoding tables of 30_encoding.md; then the host's question about a table word. -/
namespace Sys2Proof

open Sys2Proof.Machine

/-- The operation a host command word selects (F-CMD, R80, R81): `OP` in bits 3:0, `SPACE` in bit 4, `FCMD` in bits
11:8; bits 7:5 and 31:12 are ignored (R90). Every word is an instruction. -/
def decodeCommand (w : Word) : Instr :=
  let space := w.extractLsb' 4 1
  let fcmd := w.extractLsb' 8 4
  match (w.extractLsb' 0 4).toNat with
  | 0 => .reserved0 space fcmd
  | 1 => .enc space fcmd
  | 2 => .dec space fcmd
  | 3 => .send space fcmd
  | 4 => .recv space fcmd
  | 5 => .readReg space fcmd
  | 6 => .writeReg space fcmd
  | 7 => .selectPage space fcmd
  | 8 => .reserved8 space fcmd
  | 9 => .reserved9 space fcmd
  | 10 => .reservedA space fcmd
  | 11 => .reservedB space fcmd
  | 12 => .reservedC space fcmd
  | 13 => .reservedD space fcmd
  | 14 => .reservedE space fcmd
  | _ => .reservedF space fcmd

/-- The outbound message a byte string spells (R82 to R84, R86). Byte 3 of M-WR counts the data plus one; a 0 there,
which no message has and which the opcode table's mask lets through, counts no data (DESIGN CHOICE,
notes/assumptions/17.md). -/
def decodeMessage (c : Config) (bs : List Byte) : Except DecodeError Instr :=
  if bs = wakeMessage then .ok .mWake
  else if bs.take 5 = c.rrSetupPrefix.toList ∧ bs.length = 7 then
    .ok (.mRrs (bs.getD 5 0) (bs.getD 6 0))
  else if bs.take 2 = c.rrTrigPrefix.toList ∧ bs.length = 3 then
    .ok (.mRrt (bs.getD 2 0))
  else if bs.take 3 = c.wrPrefix.toList ∧ 5 ≤ bs.length ∧ bs.length ≤ 5 + mWrMax
      ∧ (bs.getD 3 0).toNat - 1 = bs.length - 5 then
    .ok (.mWr (bs.getD 4 0) (bs.drop 5))
  else .error .notAMessage

/-- The reply an RX state expects (R85). -/
def decodeReply : Reply → Instr
  | .afterSetup => .mSack
  | .afterTrigger len => .mTrep len
  | .afterWrite => .mWack

/-- The frame commands a header byte can tell apart: bit 3 of a command never reaches the header (R88, R91). -/
def headerCommands : List Nibble := [0, 1, 2, 3, 4, 5, 6, 7]

/-- The outbound frame a wire sequence spells (R87): the frame command of its header, without bit 3 (R91), and the
logical bytes. -/
def decodeWire (c : Config) (w : List Byte) : Except DecodeError Instr :=
  if w.length < 2 ∨ w.length % 2 = 1 then .error .frameLength
  else if w.getLast? ≠ some c.terminator then .error .frameTerminator
  else
    match headerCommands.find? (fun k => header c k == w.headD 0) with
    | none => .error .frameHeader
    | some k =>
      match decodePairs c (frameData w) with
      | some d => .ok (.fFrame k d)
      | none => .error .frameSymbol

/-- The decoder, under a parameter record. -/
def decode (c : Config) : Code → Except DecodeError Instr
  | .command w => .ok (decodeCommand w)
  | .message bs => decodeMessage c bs
  | .reply r => .ok (decodeReply r)
  | .wire w => decodeWire c w

/-- A host command word (F-CMD, R80): reserved bits written 0. -/
def commandWord (op : BitVec 4) (space : BitVec 1) (fcmd : Nibble) : Word :=
  (0 : BitVec 20) ++ fcmd ++ (0 : BitVec 3) ++ space ++ op

/-- The encoder: the code of an instruction, under a parameter record. -/
def encode (c : Config) : Instr → Code
  | .enc space fcmd => .command (commandWord 0x1 space fcmd)
  | .dec space fcmd => .command (commandWord 0x2 space fcmd)
  | .send space fcmd => .command (commandWord 0x3 space fcmd)
  | .recv space fcmd => .command (commandWord 0x4 space fcmd)
  | .readReg space fcmd => .command (commandWord 0x5 space fcmd)
  | .writeReg space fcmd => .command (commandWord 0x6 space fcmd)
  | .selectPage space fcmd => .command (commandWord 0x7 space fcmd)
  | .reserved0 space fcmd => .command (commandWord 0x0 space fcmd)
  | .reserved8 space fcmd => .command (commandWord 0x8 space fcmd)
  | .reserved9 space fcmd => .command (commandWord 0x9 space fcmd)
  | .reservedA space fcmd => .command (commandWord 0xA space fcmd)
  | .reservedB space fcmd => .command (commandWord 0xB space fcmd)
  | .reservedC space fcmd => .command (commandWord 0xC space fcmd)
  | .reservedD space fcmd => .command (commandWord 0xD space fcmd)
  | .reservedE space fcmd => .command (commandWord 0xE space fcmd)
  | .reservedF space fcmd => .command (commandWord 0xF space fcmd)
  | .mRrs len reg => .message (rrsBytes c len reg)
  | .mRrt len => .message (rrtBytes c len)
  | .mWr reg data => .message (wrBytes c reg data)
  | .mSack => .reply .afterSetup
  | .mTrep len => .reply (.afterTrigger len)
  | .mWack => .reply .afterWrite
  | .mWake => .message wakeMessage
  | .fFrame fcmd data => .wire (encodeFrame c fcmd data)

/-- The logical bytes of a table word, first byte in bits 7..0, `n` of them. -/
def tableBytes (n w : Nat) : List Byte :=
  (List.range n).map fun i => BitVec.ofNat 8 (w / 2 ^ (8 * i))

/-- How many bytes the message has whose first `nbits` bits are `w`: the bits given, and for M-WR the data bytes
its byte 3 counts beyond them (R84), which are 0. -/
def tableLength (nbits w : Nat) : Nat :=
  let bytes := tableBytes (nbits / 8) w
  if bytes.take 3 = Config.default.wrPrefix.toList then max (nbits / 8) ((bytes.getD 3 0).toNat + 4)
  else nbits / 8

/-- What the decoder reads from a table word: the word's low `nbits` bits, all bits above them 0. A row of no bits
is the empty message M-SACK; up to 32 bits spell a host command word, but for the three bytes of an M-RRT; more
bits spell a logical message. The default parameter record is the one read under. -/
def decodeTableWord (nbits w : Nat) : Option Instr :=
  let v := w % 2 ^ nbits
  if nbits = 0 then some (decodeReply .afterSetup)
  else if nbits ≤ 32 ∧ ¬ (nbits = 24 ∧ v % 65536 = 0x0708) then
    (decode Config.default (.command (BitVec.ofNat 32 v))).toOption
  else (decode Config.default (.message (tableBytes (tableLength nbits v) v))).toOption

end Sys2Proof
end

