-- ==== Sys2Proof/Machine/Fsm.lean ====
section
/-! DEFINITION. The FSM as an agent of its own: the action of every state (10_state.md R21, 40_command_port.md R111),
the row of the opcode table that a TX or RX state carries, and the wire bytes a TX state is transmitting. -/
namespace Sys2Proof.Machine

open Sys2Proof

/-- One FSM step (R111): the action of the current state; none in IDLE and FAULTED. -/
def fsmStep (s : State) : State :=
  match s.fsm with
  | .idle => s
  | .faulted => s
  | .encRun => encRun s
  | .decRun => decRun s
  | .sendTx => sendTx s
  | .recvRx => recvRx s
  | .rrSetupTx => rrSetupTx s
  | .rrSetupRx => rrSetupRx s
  | .rrTrigTx => rrTrigTx s
  | .rrTrigRx => rrTrigRx s
  | .wrTx => wrTx s
  | .wrRx => wrRx s
  | .psWrTx => psWrTx s
  | .psWrRx => psWrRx s
  | .psRdSetupTx => psRdSetupTx s
  | .psRdSetupRx => psRdSetupRx s
  | .psRdTrigTx => psRdTrigTx s
  | .psRdTrigRx => psRdTrigRx s
  | .psCheck => psCheck s
  | .checkArgs => checkArgs s

/-- `n` FSM steps. -/
def fsmSteps : Nat → State → State
  | 0, s => s
  | n + 1, s => fsmSteps n (fsmStep s)

/-- The row SEND_TX carries: M-WAKE where the host sends it with SEND 0 (R86), a plain frame otherwise. -/
def carriedBySend (s : State) : Instr :=
  if s.fcmdl = 0 ∧ txPayload s = wakeMessage then .mWake else .fFrame s.fcmdl (txPayload s)

/-- The message or frame row that the current state carries, with the operands the state reads (10_state.md R21,
R20: `STATE` plays the part of a program counter). The states without one act on their own. -/
def carried (s : State) : Option Instr :=
  match s.fsm with
  | .sendTx => some (carriedBySend s)
  | .rrSetupTx => some (.mRrs (lenByte s) s.reg)
  | .rrSetupRx => some .mSack
  | .rrTrigTx => some (.mRrt (lenByte s))
  | .rrTrigRx => some (.mTrep (lenByte s))
  | .wrTx => some (.mWr s.reg (txPayload s))
  | .wrRx => some .mWack
  | .psWrTx => some (.mWr (selectReg s) [s.page])
  | .psWrRx => some .mWack
  | .psRdSetupTx => some (.mRrs 1 (selectReg s))
  | .psRdSetupRx => some .mSack
  | .psRdTrigTx => some (.mRrt 1)
  | .psRdTrigRx => some (.mTrep 1)
  | .idle => none
  | .faulted => none
  | .encRun => none
  | .decRun => none
  | .recvRx => none
  | .psCheck => none
  | .checkArgs => none

/-- The wire bytes of an outbound row, under a parameter record; none for the rows that are received and for the
host commands. -/
def wireOf (c : Config) : Instr → List Byte
  | .mRrs len r => encodeFrame c c.txCmd (rrsBytes c len r)
  | .mRrt len => encodeFrame c c.txCmd (rrtBytes c len)
  | .mWr r data => encodeFrame c c.txCmd (wrBytes c r data)
  | .mWake => encodeFrame c 0 wakeMessage
  | .fFrame fcmd d => encodeFrame c fcmd d
  | _ => []

/-- The frame that the current TX state transmits; no bytes in any other state. -/
def frameInTx (s : State) : List Byte :=
  match carried s with
  | some i => wireOf s.cfg.val i
  | none => []

/-! ### Placing an instruction where the machine takes its next one -/

/-- A request in progress in a given state: what acceptance latches (R110), without CHECK_ARGS. -/
def inRequest (op : BitVec 4) (fcmd : Nibble) (x : FsmState) (s : State) : State :=
  goto x (accept op 0 fcmd s)

/-- The data operand of an outbound row in `TXBUF` and `LEN`. -/
def withPayload (d : List Byte) (s : State) : State :=
  { putBytes txBase d s with len := BitVec.ofNat 16 d.length }

/-- Place a message or frame row in the FSM's hands: the state that carries it becomes current, with the row's
operands in the registers and the buffer that the state reads. A host command needs nothing of the block. -/
def placeRow (i : Instr) (s : State) : State :=
  match i with
  | .mRrs len r => inRequest 5 0 .rrSetupTx { s with len := len.setWidth 16, reg := r }
  | .mRrt len => inRequest 5 0 .rrTrigTx { s with len := len.setWidth 16 }
  | .mWr r data => inRequest 6 0 .wrTx (withPayload data { s with reg := r })
  | .mSack => inRequest 5 0 .rrSetupRx s
  | .mTrep len => inRequest 5 0 .rrTrigRx { s with len := len.setWidth 16 }
  | .mWack => inRequest 6 0 .wrRx s
  | .mWake => inRequest 3 0 .sendTx (withPayload wakeMessage s)
  | .fFrame fcmd d => inRequest 3 fcmd .sendTx (withPayload d s)
  | _ => s

/-- Whether an instruction is a host command (level 1): such a one is written to `CMD`. -/
def isCommand (i : Instr) : Bool :=
  match encode Config.default i with
  | .command _ => true
  | _ => false

end Sys2Proof.Machine
end

