-- ==== Sys2Proof/Machine/HostPort.lean ====
section
/-! DEFINITION. The host's accesses to the register window (10_state.md R36 to R49, 20_memory.md R62 to R70), the reset
input (70_reset_and_hazards.md R340), and the steps of the link partner (60_exceptions.md R317). -/
namespace Sys2Proof.Machine

open Sys2Proof

/-- The offsets of the argument registers and the buffers the host may write: REG, LEN, PAGE, `TXBUF`, `WIREBUF`
(40_command_port.md R115). -/
def isOperandOffset (a : Nat) : Bool :=
  a == 0x008 || a == 0x00C || a == 0x010 || (txBase ≤ a && a < rxBase) || (wireBase ≤ a && a < 0xC04)

/-- Store a word in an argument register or a buffer (R38 to R40, R48): reserved bits, and the two bytes past
`WIREBUF`, ignore the write. -/
def storeOperand (a : Nat) (v : Word) (s : State) : State :=
  if a = 0x008 then { s with reg := v.extractLsb' 0 8 }
  else if a = 0x00C then { s with len := v.extractLsb' 0 16 }
  else if a = 0x010 then { s with page := v.extractLsb' 0 8 }
  else putBytes a (bytesOf v) s

/-- A host write (R67): ignored while reset is asserted (R340); a request at `CMD`; an operand stored, or dropped
while BUSY (R115); ignored without any other effect at a read-only or reserved offset (R49). -/
def hostWrite (a : Nat) (v : Word) (s : State) : State :=
  if s.resetIn then s
  else if a = 0x000 then writeCommand v s
  else if isOperandOffset a then (if busy s then drop s else storeOperand a v s)
  else s

/-- Whether a host read finds a result or a buffer that the block may be changing (20_memory.md R70,
70_reset_and_hazards.md R351). -/
def readIsUnstable (a : Nat) (s : State) : Bool := busy s && unstableOffset a

/-- Whether a host read returns any value: in an unstable word (R70), or, while reset is asserted, in the fields of
anything but `STATUS`, a constant or a reserved offset (DESIGN CHOICE, notes/assumptions/9.md). `STATUS` never does
(R71). -/
def readIsOpen (a : Nat) (s : State) : Bool :=
  readIsUnstable a s || (s.resetIn && !exactInReset a)

/-- The free value of an open read: the whole word of an unstable one (DESIGN CHOICE, notes/assumptions/26.md: the spec
leaves open whether reserved bits and the bytes 0xC02 and 0xC03 still read 0 while BUSY, R48, R49 and U4 against R70 and
U2), and the fields alone while reset is asserted, where reserved bits read 0 as always (30_encoding.md R90, R48, R49,
U4). -/
def openWord (a : Nat) (s : State) : Word :=
  if readIsUnstable a s then Config.anyRead s.draws else Config.anyRead s.draws &&& fieldMask a

/-- A host read: the word goes to the host and the block does not change (R67). -/
def hostRead (a : Nat) (s : State) : State :=
  if readIsOpen a s then { s with rdata := openWord a s, draws := s.draws + 1 }
  else { s with rdata := readWord s a }

/-- One host access. Another width, or an offset that is no multiple of 4, is refused (20_memory.md R62); an offset
outside the window is no address (R60). -/
def hostAccess (access : HostAccess) (s : State) : Host.Outcome State Fault Refusal :=
  match access with
  | .read width a =>
    if width ≠ 4 then .refused .hostWidth
    else if a % 4 ≠ 0 then .refused .hostMisaligned
    else if 0x1000 ≤ a then .fault .outsideWindow
    else .next (hostRead a s)
  | .write width a v =>
    if width ≠ 4 then .refused .hostWidth
    else if a % 4 ≠ 0 then .refused .hostMisaligned
    else if 0x1000 ≤ a then .fault .outsideWindow
    else .next (hostWrite a v s)

/-- The reset input asserted (R340, R342): in a TX state a prefix of the frame has left; then the reset action. -/
def assertReset (sent : Nat) (s : State) : State :=
  { resetAction (putOut ((frameInTx s).take sent) s) with resetIn := true }

/-- The reset input released (R340): the block is in its reset state, and what arrived meanwhile is discarded. A
release without an assertion is none. -/
def releaseReset (s : State) : State :=
  if s.resetIn then { resetAction s with resetIn := false } else s

/-- A step of the link partner (00_scope.md R6, 60_exceptions.md R317). -/
def partnerStep (act : PartnerAct) (s : State) : State :=
  match act with
  | .supply answers => { s with link := { s.link with rx := s.link.rx ++ answers } }
  | .arrive count =>
    { s with link := { s.link with arrived := min (s.link.arrived + count) s.link.rx.length } }
  | .answerTx answer => { s with link := { s.link with tx := s.link.tx ++ [answer] } }

end Sys2Proof.Machine
end

