-- ==== Sys2Proof/Machine/Step.lean ====
section
/-! DEFINITION. One step of the machine: the next turn of the three agents (00_scope.md R6, 60_exceptions.md R311). A
host command runs as the instruction it spells; a TX or RX state of the FSM runs the row it carries. -/
namespace Sys2Proof.Machine

open Sys2Proof

/-- The FSM's turn: the row the current state carries, or the state's own action. -/
def fsmTurn (s : State) : Host.Outcome State Fault Refusal :=
  match carried s with
  | some i => exec i s
  | none => .next (fsmStep s)

/-- What a turn does. -/
def takeTurn (t : Turn) (s : State) : Host.Outcome State Fault Refusal :=
  match t with
  | .request w => exec (decodeCommand w) s
  | .host access => hostAccess access s
  | .fsm => fsmTurn s
  | .partner act => .next (partnerStep act s)
  | .assertReset sent => .next (assertReset sent s)
  | .releaseReset => .next (releaseReset s)

/-- One step: the next turn, taken off the list; with no turn left, the FSM's. -/
def step (s : State) : Host.Outcome State Fault Refusal :=
  match s.sched with
  | [] => fsmTurn s
  | t :: rest => takeTurn t { s with sched := rest }

/-- The state whose very next step runs the instruction of a table word: a host command as the host's next request,
a message row in the FSM state that carries it, with its operands. -/
def State.withFetchWord (s : State) (nbits w : Nat) : State :=
  match decodeTableWord nbits w with
  | none => s
  | some i =>
    if isCommand i then { s with sched := .request (BitVec.ofNat 32 (w % 2 ^ nbits)) :: s.sched }
    else { placeRow i s with sched := .fsm :: s.sched }

end Sys2Proof.Machine
end

