-- ==== Sys2Proof/Safety.lean ====
section
/-! DEFINITION. The terms the statements use: the invariant of the machine, which state makes which check, the frames a
link partner answers with, and which parts of the state two states share. -/
namespace Sys2Proof.Machine

open Sys2Proof

/-! ### The invariant -/

/-- The operation whose request a state belongs to (the column "request" of 10_state.md R21); none for the states
every request or no request passes. -/
def requestOf : FsmState → Option (BitVec 4)
  | .idle => none
  | .faulted => none
  | .checkArgs => none
  | .encRun => some 1
  | .decRun => some 2
  | .sendTx => some 3
  | .recvRx => some 4
  | .rrSetupTx => some 5
  | .rrSetupRx => some 5
  | .rrTrigTx => some 5
  | .rrTrigRx => some 5
  | .wrTx => some 6
  | .wrRx => some 6
  | .psWrTx => some 7
  | .psWrRx => some 7
  | .psRdSetupTx => some 7
  | .psRdSetupRx => some 7
  | .psRdTrigTx => some 7
  | .psRdTrigRx => some 7
  | .psCheck => some 7

/-- The lengths CHECK_ARGS lets an operation past with (40_command_port.md R112). -/
def lenInRange (op : BitVec 4) (len : BitVec 16) : Bool :=
  match op.toNat with
  | 1 => len.toNat ≤ txCap
  | 2 => len.toNat ≤ wireCap
  | 3 => len.toNat ≤ txCap
  | 4 => len.msb || len.toNat ≤ rxCap
  | 5 => len.toNat ≤ 255
  | 6 => len.toNat ≤ 254
  | _ => true

/-- The invariant of the machine. -/
structure BlockInv (s : State) : Prop where
  /-- The buffer memory is in its canonical form. -/
  memory : s.mem.wf = true
  /-- A state past CHECK_ARGS belongs to the latched operation, whose length is in range (R21, R112). -/
  request : ∀ op, requestOf s.fsm = some op → s.opl = op ∧ lenInRange op s.len = true
  /-- The attempt counter never passes the budget of the latched space (45_page_select.md R243). -/
  attempts : s.attempt.toNat ≤ budget s.cfg.val s.spacel
  /-- While a request is in progress it is not done and no error is recorded (R110, 60_exceptions.md R306). -/
  inProgress : busy s = true → s.done = false ∧ s.err = 0 ∧ s.cause = 0
  /-- The error code and its cause are a row of R301, or no error is recorded (R300: 6 to 15 are never written). -/
  errorCode : (s.err = 0 ∧ s.cause = 0) ∨ ∃ e, s.err = errCode (classOf e) ∧ s.cause = causeCode e
  /-- FAULTED is the state after an IoError and after nothing else (R303, R304). -/
  faulted : s.fsm = .faulted ↔ s.err = errCode .io
  /-- An error ended its request, and marks the result absent (R302). -/
  errorEnds : s.err ≠ 0 → s.done = true ∧ s.rlen = 0
  /-- Neither length exceeds `WIREBUF` (R27). -/
  lengths : s.rlen.toNat ≤ wireCap ∧ s.wlen.toNat ≤ wireCap
  /-- No more inbound entries have arrived than there are. -/
  arrived : s.link.arrived ≤ s.link.rx.length
  /-- Reset holds the FSM in IDLE (70_reset_and_hazards.md R340). -/
  inReset : s.resetIn = true → s.fsm = .idle

/-! ### Which state makes which check -/

/-- The TX states: each transmits one frame (10_state.md R21). -/
def isTxState (x : FsmState) : Bool :=
  x == .sendTx || x == .rrSetupTx || x == .rrTrigTx || x == .wrTx || x == .psWrTx || x == .psRdSetupTx
    || x == .psRdTrigTx

/-- The RX states that wait for a setup acknowledge, with an EMPTY receive (44_register_client.md R212). -/
def isSetupRxState (x : FsmState) : Bool := x == .rrSetupRx || x == .psRdSetupRx

/-- The RX states: each receives one frame (R21). -/
def isRxState (x : FsmState) : Bool :=
  isSetupRxState x || x == .recvRx || x == .rrTrigRx || x == .wrRx || x == .psWrRx || x == .psRdTrigRx

/-- Whether a state makes the check that raises a cause (60_exceptions.md R301, column "raised by", and R310, the kinds
of states). -/
def mayRaise (x : FsmState) (e : Cause) : Bool :=
  match e with
  | .rxTimeout => isRxState x
  | .txFail => isTxState x
  | .short => isRxState x || x == .decRun
  | .oddLength => isRxState x || x == .decRun
  | .noTerminator => isRxState x || x == .decRun
  | .hdrSymbol => isRxState x || x == .decRun
  | .hdrSentinel => isRxState x || x == .decRun
  | .dataSymbol => isRxState x || x == .decRun
  | .truncated => isRxState x && !isSetupRxState x
  | .setupReplyNonempty => isSetupRxState x
  | .budgetExhausted => x == .psCheck
  | .reservedOp => x == .checkArgs
  | .lenRange => x == .checkArgs

/-! ### The link partner's frames -/

/-- A header byte a partner may begin a reply with, and the nibble it extracts to: it decodes, and the nibble passes
the sentinel check (42_frame_codec.md R156, R157). That this can be the byte 0x00, under a record that defines it, is
the model's choice (notes/assumptions/28.md). -/
abbrev goodHeader (c : Config) (h : Byte) (n : Nibble) : Prop :=
  hdrDecode c h = some n ∧ sentinelOk c n = true

/-- The wire bytes of a reply with header byte `h` and logical bytes `d` (30_encoding.md R89). -/
def replyFrame (c : Config) (h : Byte) (d : List Byte) : List Byte :=
  h :: (d.flatMap (encPair c) ++ [c.terminator])

/-- Inbound bytes as answers to `draw_rx`. -/
def arriving (ws : List Byte) : List RxDraw := ws.map .byte

/-- The next `n` transmits succeed. -/
abbrev txSucceeds (n : Nat) (s : State) : Prop := ∀ d ∈ s.link.tx.take n, d = .ok

/-- The replies of one attempt of SELECT_PAGE (45_page_select.md R242): the acknowledge, the value read back and the
status byte, under three headers with their nibbles. -/
structure SelectReply where
  h1 : Byte
  n1 : Nibble
  h2 : Byte
  n2 : Nibble
  h3 : Byte
  n3 : Nibble
  ack : List Byte
  value : Byte
  status : Byte
deriving DecidableEq, Repr

/-- Every header of the replies is a good one, and the acknowledge has the length the block asks for. -/
abbrev SelectReply.good (c : Config) (r : SelectReply) : Prop :=
  goodHeader c r.h1 r.n1 ∧ goodHeader c r.h2 r.n2 ∧ goodHeader c r.h3 r.n3 ∧ r.ack.length = c.wrAckLen

/-- The wire bytes of the replies, in order. -/
def SelectReply.wire (c : Config) (r : SelectReply) : List Byte :=
  replyFrame c r.h1 r.ack ++ replyFrame c r.h2 [] ++ replyFrame c r.h3 [r.value, r.status]

/-- The wire bytes one attempt transmits (R242). -/
def attemptOut (c : Config) (space : BitVec 1) (p : Byte) : List Byte :=
  encodeFrame c c.txCmd (wrBytes c (pageReg c space) [p])
    ++ encodeFrame c c.txCmd (rrsBytes c 1 (pageReg c space))
    ++ encodeFrame c c.txCmd (rrtBytes c 1)

/-! ### Configurations told apart by the decoder -/

/-- No two of the outbound message formats share a byte string under this record (they do not under the default). -/
abbrev messagesDistinct (c : Config) : Prop :=
  c.rrSetupPrefix.toList.take 3 ≠ c.wrPrefix.toList ∧ c.rrSetupPrefix.toList ≠ wakeMessage.take 5

/-- The eight header bytes of frame commands 0 to 7 are distinct under this record (R88 does not promise it). -/
abbrev headersDistinct (c : Config) : Prop :=
  ∀ a ∈ headerCommands, ∀ b ∈ headerCommands, header c a = header c b → a = b

/-! ### Parts of the state -/

/-- Everything but the tracked pages, and the word the host last read, is the same in two states (45_page_select.md
R248: the tracked pages exist so that the host can see them). -/
def sameButTracking (s t : State) : Prop :=
  { s with
    mainValid := t.mainValid
    mainPage := t.mainPage
    subValid := t.subValid
    subPage := t.subPage
    rdata := t.rdata } = t

/-- A row of level 1: the request of an operation (30_encoding.md R80), with its operation code and fields. -/
def commandOf (i : Instr) : Option (BitVec 4 × BitVec 1 × Nibble) :=
  match i with
  | .enc sp fc => some (1, sp, fc)
  | .dec sp fc => some (2, sp, fc)
  | .send sp fc => some (3, sp, fc)
  | .recv sp fc => some (4, sp, fc)
  | .readReg sp fc => some (5, sp, fc)
  | .writeReg sp fc => some (6, sp, fc)
  | .selectPage sp fc => some (7, sp, fc)
  | .reserved0 sp fc => some (0, sp, fc)
  | .reserved8 sp fc => some (8, sp, fc)
  | .reserved9 sp fc => some (9, sp, fc)
  | .reservedA sp fc => some (10, sp, fc)
  | .reservedB sp fc => some (11, sp, fc)
  | .reservedC sp fc => some (12, sp, fc)
  | .reservedD sp fc => some (13, sp, fc)
  | .reservedE sp fc => some (14, sp, fc)
  | .reservedF sp fc => some (15, sp, fc)
  | .mRrs _ _ => none
  | .mRrt _ => none
  | .mWr _ _ => none
  | .mSack => none
  | .mTrep _ => none
  | .mWack => none
  | .mWake => none
  | .fFrame _ _ => none

end Sys2Proof.Machine
end

