-- ==== Sys2Proof/Certificates/Slice0/Obligations.lean ====
section
/-! DEFINITION. The statements for the provers, each from a rule of spec/ or derived from one. A statement that names
`accept` says what R110 leaves at acceptance (AcceptanceClearsAndLatches says it field by field). -/

open Sys2Proof Sys2Proof.Machine

/-! ### Encodings -/

/-- Words written out bit by bit from the spec's encodings decode to the instructions they stand for (R80, R82 to R84,
R86, R87; 95_test_vectors.md sections 1.8 and 2.8), under the default record. -/
def Obligations.TabledWordsDecode : Prop :=
  decode Config.default (.command 0x00000001) = .ok (.enc 0 0) ∧
  decode Config.default (.command 0x00000017) = .ok (.selectPage 1 0) ∧
  decode Config.default (.command 0xFFFFF0F5) = .ok (.readReg 1 0) ∧
  decode Config.default (.command 0x0000000F) = .ok (.reservedF 0 0) ∧
  decode Config.default (.message [0x13, 0x03, 0x06, 0x01, 0x07, 0x07, 0x9A]) = .ok (.mRrs 0x07 0x9A) ∧
  decode Config.default (.message [0x08, 0x07, 0x07]) = .ok (.mRrt 0x07) ∧
  decode Config.default (.message [0x13, 0x01, 0x04, 0x02, 0xE7, 0x03]) = .ok (.mWr 0xE7 [0x03]) ∧
  decode Config.default (.message [0x11, 0x02, 0x64, 0x00, 0x00, 0x00, 0x00]) = .ok .mWake ∧
  decode Config.default (.wire [0x54, 0x5A, 0x56, 0x5A, 0x55, 0x00]) = .ok (.fFrame 0 [0x13, 0x03])

/-- Decode and encode agree: every well-formed instruction of every level decodes from its own code, under every
admitted record whose messages and header bytes can be told apart. A frame's command comes back without bit 3, which
R88 keeps out of the header. -/
def Obligations.EncodeDecodeAgree : Prop :=
  ∀ (p : Params) (i : Instr), messagesDistinct p.val → headersDistinct p.val → i.wf = true →
    decode p.val (encode p.val i) =
      .ok (match i with
        | .fFrame c d => .fFrame (c &&& 7) d
        | j => j)

/-- Bits the encodings ignore: bits 7:5 and 31:12 of a command word (R80), so that two words that agree on OP, SPACE and
FCMD are the same instruction; and bit 3 of a frame command, so that commands 8 to 15 alias 0 to 7 (R91). -/
def Obligations.IgnoredEncodingBits : Prop :=
  (∀ v w : Word, v &&& 0x00000F1F = w &&& 0x00000F1F → decodeCommand v = decodeCommand w) ∧
  (∀ (c : Config) (k : Nibble) (d : List Byte),
    header c (k + 8) = header c k ∧ encodeFrame c (k + 8) d = encodeFrame c k d)

/-- The messages carry the bytes of R82 to R84 under the default record; byte 3 of M-WR is the data length plus one. -/
def Obligations.MessageBytesAsTabled : Prop :=
  (∀ len r : Byte, rrsBytes Config.default len r = [0x13, 0x03, 0x06, 0x01, 0x07, len, r]) ∧
  (∀ len : Byte, rrtBytes Config.default len = [0x08, 0x07, len]) ∧
  (∀ (r : Byte) (d : List Byte), d.length ≤ 254 →
    wrBytes Config.default r d = [0x13, 0x01, 0x04, BitVec.ofNat 8 (d.length + 1), r] ++ d ∧
    (BitVec.ofNat 8 (d.length + 1) : Byte).toNat = d.length + 1)

/-! ### Cipher and frame codec -/

/-- The forward and the reverse table are inverses, exactly 16 reverse entries are valid (R134), and every byte
survives encoding and decoding (R138), for every record whose sixteen symbols are distinct (R131). So the correctness
gate (R139), which checks this on the record itself, refuses no table that R131 admits. -/
def Obligations.CipherTablesInverse : Prop :=
  ∀ c : Config, c.injective = true →
    (∀ n : Nibble, reverse c (c.symbol n) = some n) ∧
    (∀ (w : Byte) (n : Nibble), reverse c w = some n → c.symbol n = w) ∧
    (allBytes.filter fun w => (reverse c w).isSome).length = 16 ∧
    (∀ b : Byte, ∃ wl wh : Byte, encPair c b = [wl, wh] ∧ decPair c wl wh = some b) ∧
    c.gate = true

/-- The length of an encoded frame (R153) and its invariants (R154): the header is no terminator, every data position
holds a symbol and so no terminator, the last byte is the terminator; under the default record no header is a
symbol. -/
def Obligations.EncodedFrameShape : Prop :=
  (∀ (p : Params) (k : Nibble) (d : List Byte),
    (encodeFrame p.val k d).length = 2 * d.length + 2 ∧
    (d.length ≤ 512 → (encodeFrame p.val k d).length ≤ 1026) ∧
    (encodeFrame p.val k d)[0]? = some (header p.val k) ∧ header p.val k ≠ p.val.terminator ∧
    (∀ i, 1 ≤ i → i ≤ 2 * d.length →
      ∃ n : Nibble, (encodeFrame p.val k d)[i]? = some (p.val.symbol n) ∧ p.val.symbol n ≠ p.val.terminator) ∧
    (encodeFrame p.val k d)[2 * d.length + 1]? = some p.val.terminator) ∧
  (∀ k : Nibble, reverse Config.default (header Config.default k) = none)

/-- The round-trip law (R160): without the header check every frame decodes to its bytes; with it, exactly when the
header decodes to a nibble that passes the sentinel; under `S_GK` never with `HDR_DEC = REV`, and with
`HDR_DEC_MASKED` exactly for commands 7 and 15. -/
def Obligations.FrameRoundTrip : Prop :=
  (∀ (p : Params) (k : Nibble) (d : List Byte), d.length ≤ 512 →
    decodeBody p.val (encodeFrame p.val k d) = .ok d ∧
    ((∃ x, decodeFrame p.val (encodeFrame p.val k d) = .ok x) ↔
      ∃ h, hdrDecode p.val (header p.val k) = some h ∧ h.extractLsb' 1 3 = p.val.replySentinel)) ∧
  (∀ (k : Nibble) (d : List Byte), d.length ≤ 512 →
    decodeFrame Config.default (encodeFrame Config.default k d) = .error .hdrSymbol ∧
    ((∃ x, decodeFrame Config.maskedHeaders (encodeFrame Config.maskedHeaders k d) = .ok x) ↔ k = 7 ∨ k = 15))

/-- The sentinel law (R161): past the length and terminator checks, a header that does not decode, or whose bits 3..1
are not the sentinel, fails whatever the payload is. -/
def Obligations.SentinelLaw : Prop :=
  ∀ (c : Config) (w : List Byte), 2 ≤ w.length → w.length % 2 = 0 → w.getLast? = some c.terminator →
    (hdrDecode c (w.headD 0) = none → decodeFrame c w = .error .hdrSymbol) ∧
    (∀ h, hdrDecode c (w.headD 0) = some h → h.extractLsb' 1 3 ≠ c.replySentinel →
      decodeFrame c w = .error .hdrSentinel)

/-- What a successful decode returns (R158): `(n - 2) / 2` bytes, byte `i` joined from the nibbles of wire bytes
`2i + 1` and `2i + 2`. -/
def Obligations.DecodedContent : Prop :=
  ∀ (c : Config) (w : List Byte) (h : Nibble) (out : List Byte), decodeFrame c w = .ok (h, out) →
    out.length = (w.length - 2) / 2 ∧
    ∀ i, i < out.length →
      ∃ wl wh nl nh, w[2 * i + 1]? = some wl ∧ w[2 * i + 2]? = some wh ∧
        reverse c wl = some nl ∧ reverse c wh = some nh ∧ out[i]? = some (joinNibbles nl nh)

/-- A reply of the partner decodes to its header nibble and its logical bytes (R85, R89, R155). -/
def Obligations.ReplyFramesDecode : Prop :=
  ∀ (p : Params) (h : Byte) (n : Nibble) (d : List Byte), goodHeader p.val h n →
    decodeFrame p.val (replyFrame p.val h d) = .ok (n, d)

/-! ### Transport -/

/-- Length accounting (R190): a receive takes at most `2L + 2` bytes off the link (and, where it times out, the
timeout); on success exactly `2L + 2` in EXACT mode, and `2k + 2` for the `k` bytes returned in the other two. -/
def Obligations.ReceiveLengthAccounting : Prop :=
  ∀ (l : Nat) (mode : RxMode) (s t : State) (r : Except Cause (List Byte)), rxFrame l mode s = (r, t) →
    ∃ ws : List Byte, ws.length ≤ 2 * l + 2 ∧ t.rxCount = ws.length ∧
      (r = .error .rxTimeout →
        s.link.rx = arriving ws ++ t.link.rx ∨ s.link.rx = arriving ws ++ .timeout :: t.link.rx) ∧
      (r ≠ .error .rxTimeout → s.link.rx = arriving ws ++ t.link.rx) ∧
      ∀ out, r = .ok out →
        (mode = .exact → ws.length = 2 * l + 2) ∧ (mode ≠ .exact → ws.length = 2 * out.length + 2)

/-- Inbound bytes are consumed in arrival order and never discarded (R73): a receive takes draws from the front, the
bytes it took stand in order in `WIREBUF`, and everything after them stays on the link. -/
def Obligations.UnconsumedBytesStay : Prop :=
  ∀ (l : Nat) (mode : RxMode) (s t : State) (r : Except Cause (List Byte)),
    l ≤ 512 → rxFrame l mode s = (r, t) →
    ∃ (ws : List Byte) (tail : List RxDraw), s.link.rx = arriving ws ++ tail ∧
      (tail = t.link.rx ∨ tail = .timeout :: t.link.rx) ∧
      ws.length = t.rxCount ∧ t.wlen.toNat = ws.length ∧ bytesAt t 0x800 ws.length = ws

/-- SEND (R186, R189, R180): the frame leaves whole and the request completes with both valid bits cleared; a failed
transmit leaves a prefix of it and faults the block. -/
def Obligations.SendRequestResult : Prop :=
  ∀ (s : State) (sp : BitVec 1) (fc : Nibble),
    s.resetIn = false → s.fsm = .idle → s.len.toNat ≤ 512 →
    (txSucceeds 1 s →
      exec (.send sp fc) s = .next
        { accept 3 sp fc s with
          fsm := .idle
          done := true
          mainValid := false
          subValid := false
          txf := encodeFrame s.cfg.val fc (bytesAt s 0x400 s.len.toNat)
          link := { s.link with
            tx := s.link.tx.drop 1
            out := s.link.out ++ encodeFrame s.cfg.val fc (bytesAt s 0x400 s.len.toNat) } }) ∧
    (∀ j, s.link.tx.head? = some (.fail j) →
      exec (.send sp fc) s = .next
        { accept 3 sp fc s with
          fsm := .faulted
          done := true
          err := 1
          cause := 2
          errPhase := 4
          mainValid := false
          subValid := false
          txf := encodeFrame s.cfg.val fc (bytesAt s 0x400 s.len.toNat)
          link := { s.link with
            tx := s.link.tx.drop 1
            out := s.link.out ++ (encodeFrame s.cfg.val fc (bytesAt s 0x400 s.len.toNat)).take j } })

/-- RECV (R187, R188) on a well-formed reply: of exactly `LEN` bytes, or, for a negative `LEN`, of up to the default
length. The reply's bytes go to `RXBUF`, its wire bytes to `WIREBUF`; what follows it stays on the link. -/
def Obligations.RecvRequestResult : Prop :=
  ∀ (s : State) (sp : BitVec 1) (fc : Nibble) (h : Byte) (n : Nibble) (d : List Byte) (rest : List RxDraw),
    s.resetIn = false → s.fsm = .idle →
    ((s.len.msb = false ∧ s.len.toNat ≤ 512 ∧ d.length = s.len.toNat) ∨
      (s.len.msb = true ∧ d.length ≤ s.cfg.val.recvDefaultLen.toNat)) →
    goodHeader s.cfg.val h n → s.link.rx = arriving (replyFrame s.cfg.val h d) ++ rest →
    exec (.recv sp fc) s = .next
      { accept 4 sp fc s with
        fsm := .idle
        done := true
        mem := (s.mem.writeAll 0x800 (replyFrame s.cfg.val h d)).writeAll 0x600 d
        wlen := BitVec.ofNat 11 (2 * d.length + 2)
        rxCount := 2 * d.length + 2
        timerFired := false
        rxhdrV := true
        rxhdr := n
        rlen := BitVec.ofNat 11 d.length
        link := { s.link with rx := rest, arrived := s.link.arrived - (2 * d.length + 2) } }

/-- A well-formed reply of another length than a receive asks for. A shorter one, in EXACT mode, is FramingError
`TRUNCATED` (R184, R301): the block returns to IDLE, `RXBUF` is not written, both valid bits are cleared. Of a longer
one than the `l` bytes asked for, in EXACT mode or, for a negative `LEN`, longer than the default length (R188), the
receive takes exactly `2l + 2` bytes (R182), ends in FramingError `NO_TERMINATOR` (R350), and the rest stays on the link
(R310). -/
def Obligations.RecvWrongLengthReply : Prop :=
  ∀ (s : State) (sp : BitVec 1) (fc : Nibble) (h : Byte) (n : Nibble) (d : List Byte) (rest : List RxDraw),
    s.resetIn = false → s.fsm = .idle → goodHeader s.cfg.val h n →
    s.link.rx = arriving (replyFrame s.cfg.val h d) ++ rest →
    (s.len.msb = false → s.len.toNat ≤ 512 → d.length < s.len.toNat →
      exec (.recv sp fc) s = .next
        { accept 4 sp fc s with
          fsm := .idle
          done := true
          err := 2
          cause := 7
          errPhase := 5
          mainValid := false
          subValid := false
          mem := s.mem.writeAll 0x800 (replyFrame s.cfg.val h d)
          wlen := BitVec.ofNat 11 (2 * d.length + 2)
          rxCount := 2 * d.length + 2
          timerFired := false
          rxhdrV := true
          rxhdr := n
          link := { s.link with rx := rest, arrived := s.link.arrived - (2 * d.length + 2) } }) ∧
    (∀ l : Nat,
      (s.len.msb = false ∧ s.len.toNat ≤ 512 ∧ l = s.len.toNat ∨
        s.len.msb = true ∧ l = s.cfg.val.recvDefaultLen.toNat) →
      l < d.length →
      exec (.recv sp fc) s = .next
        { accept 4 sp fc s with
          fsm := .idle
          done := true
          err := 2
          cause := 3
          errPhase := 5
          mainValid := false
          subValid := false
          mem := s.mem.writeAll 0x800 ((replyFrame s.cfg.val h d).take (2 * l + 2))
          wlen := BitVec.ofNat 11 (2 * l + 2)
          rxCount := 2 * l + 2
          timerFired := false
          rxhdrV := true
          rxhdr := n
          link := { s.link with
            rx := arriving ((replyFrame s.cfg.val h d).drop (2 * l + 2)) ++ rest
            arrived := s.link.arrived - (2 * l + 2) } })

/-- A timeout before the frame ends (R182, R183, R303): IoError `RX_TIMEOUT`, FAULTED, the partial frame kept in
`WIREBUF` with its length, no header recorded. -/
def Obligations.RecvTimeoutFaults : Prop :=
  ∀ (s : State) (sp : BitVec 1) (fc : Nibble) (ws : List Byte) (rest : List RxDraw),
    s.resetIn = false → s.fsm = .idle → (s.len.msb = true ∨ s.len.toNat ≤ 512) →
    ws.length < (if s.len.msb then 2 * s.cfg.val.recvDefaultLen.toNat + 2 else 2 * s.len.toNat + 2) →
    (∀ i, 1 ≤ i → ws[i]? ≠ some s.cfg.val.terminator) →
    s.link.rx = arriving ws ++ .timeout :: rest →
    exec (.recv sp fc) s = .next
      { accept 4 sp fc s with
        fsm := .faulted
        done := true
        err := 1
        cause := 1
        errPhase := 5
        mainValid := false
        subValid := false
        mem := s.mem.writeAll 0x800 ws
        wlen := BitVec.ofNat 11 ws.length
        rxCount := ws.length
        timerFired := true
        link := { s.link with rx := rest, arrived := s.link.arrived - (ws.length + 1) } }

/-! ### The codec operations -/

/-- ENC (R162): the frame of `TXBUF[0..LEN)` stands in `WIREBUF`, its length in `WLEN` and `RLEN`; nothing else but
what acceptance clears changes, the link and the tracked pages among it. -/
def Obligations.EncRequestResult : Prop :=
  ∀ (s : State) (sp : BitVec 1) (fc : Nibble),
    s.resetIn = false → s.fsm = .idle → s.len.toNat ≤ 512 →
    exec (.enc sp fc) s = .next
      { accept 1 sp fc s with
        fsm := .idle
        done := true
        mem := s.mem.writeAll 0x800 (encodeFrame s.cfg.val fc (bytesAt s 0x400 s.len.toNat))
        wlen := BitVec.ofNat 11 (2 * s.len.toNat + 2)
        rlen := BitVec.ofNat 11 (2 * s.len.toNat + 2) }

/-- DEC (R163): on a sequence that decodes, the header and the logical bytes; on one that does not, the header (if
there is a byte 0) and the FramingError of the first failing check. On an error neither `RXBUF` nor `RLEN`, `WLEN`, the
link or the tracked pages are written. -/
def Obligations.DecRequestResult : Prop :=
  ∀ (s : State) (sp : BitVec 1) (fc : Nibble), s.resetIn = false → s.fsm = .idle → s.len.toNat ≤ 1026 →
    (∀ (h : Nibble) (out : List Byte), decodeFrame s.cfg.val (bytesAt s 0x800 s.len.toNat) = .ok (h, out) →
      exec (.dec sp fc) s = .next
        { accept 2 sp fc s with
          fsm := .idle
          done := true
          mem := s.mem.writeAll 0x600 out
          rxhdrV := true
          rxhdr := h
          rlen := BitVec.ofNat 11 out.length }) ∧
    (∀ e : Cause, decodeFrame s.cfg.val (bytesAt s 0x800 s.len.toNat) = .error e →
      exec (.dec sp fc) s = .next
        { accept 2 sp fc s with
          fsm := .idle
          done := true
          err := 2
          cause := causeCode e
          errPhase := 3
          rxhdrV := if s.len.toNat = 0 then false else (headerExtract s.cfg.val (byteAt s 0x800)).1
          rxhdr := if s.len.toNat = 0 then 0 else (headerExtract s.cfg.val (byteAt s 0x800)).2 })

/-! ### The register transactions -/

/-- READ_REG (R210 to R215) with a partner that acknowledges the setup empty and sends `LEN + 1` bytes: both frames
leave in order, the payload and the status byte stand in `RXBUF`, `RLEN` counts the payload. -/
def Obligations.ReadRegRequestResult : Prop :=
  ∀ (s : State) (sp : BitVec 1) (fc : Nibble) (h1 h2 : Byte) (n1 n2 : Nibble) (payload : List Byte) (st : Byte)
    (rest : List RxDraw),
    s.resetIn = false → s.fsm = .idle → s.len.toNat ≤ 255 → payload.length = s.len.toNat → txSucceeds 2 s →
    goodHeader s.cfg.val h1 n1 → goodHeader s.cfg.val h2 n2 →
    s.link.rx = arriving (replyFrame s.cfg.val h1 [] ++ replyFrame s.cfg.val h2 (payload ++ [st])) ++ rest →
    exec (.readReg sp fc) s = .next
      { accept 5 sp fc s with
        fsm := .idle
        done := true
        mem := ((s.mem.writeAll 0x800 (replyFrame s.cfg.val h1 [])).writeAll 0x800
          (replyFrame s.cfg.val h2 (payload ++ [st]))).writeAll 0x600 (payload ++ [st])
        wlen := BitVec.ofNat 11 (2 * (s.len.toNat + 1) + 2)
        rxCount := 2 * (s.len.toNat + 1) + 2
        timerFired := false
        rxhdrV := true
        rxhdr := n2
        rlen := BitVec.ofNat 11 s.len.toNat
        statbyte := st
        txf := encodeFrame s.cfg.val s.cfg.val.txCmd (rrtBytes s.cfg.val (BitVec.ofNat 8 s.len.toNat))
        link :=
          { rx := rest
            arrived := s.link.arrived - (2 + (2 * (s.len.toNat + 1) + 2))
            tx := s.link.tx.drop 2
            out := s.link.out
              ++ encodeFrame s.cfg.val s.cfg.val.txCmd (rrsBytes s.cfg.val (BitVec.ofNat 8 s.len.toNat) s.reg)
              ++ encodeFrame s.cfg.val s.cfg.val.txCmd (rrtBytes s.cfg.val (BitVec.ofNat 8 s.len.toNat)) } }

/-- A setup reply that is not empty. One of at most `SETUP_ACK_LEN` bytes is ProtocolError `SETUP_REPLY_NONEMPTY`
(R212, R302); of a longer one the receive takes its whole window and ends in FramingError `NO_TERMINATOR`, and the rest
stays on the link (R212, R182). Either way the register is recorded, the trigger frame is never sent, and nothing is
retried (R216). -/
def Obligations.ReadRegSetupNotEmpty : Prop :=
  ∀ (s : State) (sp : BitVec 1) (fc : Nibble) (h : Byte) (n : Nibble) (d : List Byte) (rest : List RxDraw),
    s.resetIn = false → s.fsm = .idle → s.len.toNat ≤ 255 → txSucceeds 1 s →
    1 ≤ d.length → goodHeader s.cfg.val h n →
    s.link.rx = arriving (replyFrame s.cfg.val h d) ++ rest →
    ∃ t, exec (.readReg sp fc) s = .next t ∧ t.fsm = .idle ∧ t.done = true ∧
      t.errPhase = 7 ∧ t.errReg = s.reg ∧ t.errPage = 0 ∧ t.errSpace = 0 ∧ t.rlen = 0 ∧
      t.mainValid = false ∧ t.subValid = false ∧ t.rxhdrV = true ∧ t.rxhdr = n ∧
      t.link.out = s.link.out
        ++ encodeFrame s.cfg.val s.cfg.val.txCmd (rrsBytes s.cfg.val (BitVec.ofNat 8 s.len.toNat) s.reg) ∧
      (d.length ≤ s.cfg.val.setupAckLen → t.err = 3 ∧ t.cause = 1 ∧ t.link.rx = rest) ∧
      (s.cfg.val.setupAckLen < d.length → t.err = 2 ∧ t.cause = 3 ∧
        t.wlen.toNat = 2 * s.cfg.val.setupAckLen + 2 ∧
        t.link.rx = arriving ((replyFrame s.cfg.val h d).drop (2 * s.cfg.val.setupAckLen + 2)) ++ rest)

/-- WRITE_REG (R217 to R220) with a partner that acknowledges: one frame leaves, the acknowledge stands unchecked in
`ACK` and `RXBUF[0]`, and a write to a page register clears the valid bit of its space alone. -/
def Obligations.WriteRegRequestResult : Prop :=
  ∀ (s : State) (sp : BitVec 1) (fc : Nibble) (h : Byte) (n : Nibble) (a : Byte) (more : List Byte)
    (rest : List RxDraw),
    s.resetIn = false → s.fsm = .idle → s.len.toNat ≤ 254 → txSucceeds 1 s →
    more.length + 1 = s.cfg.val.wrAckLen → goodHeader s.cfg.val h n →
    s.link.rx = arriving (replyFrame s.cfg.val h (a :: more)) ++ rest →
    exec (.writeReg sp fc) s = .next
      { accept 6 sp fc s with
        fsm := .idle
        done := true
        mainValid := s.mainValid && s.reg != s.cfg.val.mainPageReg
        subValid := s.subValid && s.reg != s.cfg.val.subPageReg
        mem := (s.mem.writeAll 0x800 (replyFrame s.cfg.val h (a :: more))).writeAll 0x600 [a]
        wlen := BitVec.ofNat 11 (2 * s.cfg.val.wrAckLen + 2)
        rxCount := 2 * s.cfg.val.wrAckLen + 2
        timerFired := false
        rxhdrV := true
        rxhdr := n
        rlen := 1
        ack := a
        txf := encodeFrame s.cfg.val s.cfg.val.txCmd (wrBytes s.cfg.val s.reg (bytesAt s 0x400 s.len.toNat))
        link :=
          { rx := rest
            arrived := s.link.arrived - (2 * s.cfg.val.wrAckLen + 2)
            tx := s.link.tx.drop 1
            out := s.link.out
              ++ encodeFrame s.cfg.val s.cfg.val.txCmd
                (wrBytes s.cfg.val s.reg (bytesAt s 0x400 s.len.toNat)) } }

/-! ### Page select -/

/-- The retry bound law (R247): with every inner transaction free of errors, `k` mismatching read-backs and then a
matching one succeed with `ATTEMPT = k + 1` for every `k` below the budget, and a budget of mismatches raises
PageSelectError after exactly that many attempts. -/
def Obligations.SelectPageRetryBound : Prop :=
  ∀ (s : State) (sp : BitVec 1) (fc : Nibble) (rs : List SelectReply) (rest : List RxDraw),
    s.resetIn = false → s.fsm = .idle → (∀ d ∈ s.link.tx, d = .ok) → (∀ r ∈ rs, r.good s.cfg.val) →
    s.link.rx = arriving (rs.flatMap (SelectReply.wire s.cfg.val)) ++ rest →
    (∀ (k : Nat) (last : SelectReply), k < budget s.cfg.val sp → rs.length = k + 1 → rs[k]? = some last →
      (∀ r ∈ rs.take k, r.value ≠ s.page) → last.value = s.page →
      ∃ t, exec (.selectPage sp fc) s = .next t ∧ t.fsm = .idle ∧ t.done = true ∧ t.err = 0 ∧
        t.attempt.toNat = k + 1 ∧ t.rlen = 1 ∧ byteAt t 0x600 = s.page ∧ t.statbyte = last.status ∧
        t.ack = last.ack.headD 0 ∧ t.link.rx = rest ∧
        t.link.out = s.link.out ++ (List.replicate (k + 1) (attemptOut s.cfg.val sp s.page)).flatten ∧
        (sp = 0 → t.mainValid = true ∧ t.mainPage = s.page ∧ t.subValid = s.subValid ∧ t.subPage = s.subPage) ∧
        (sp = 1 → t.subValid = true ∧ t.subPage = s.page ∧ t.mainValid = s.mainValid ∧ t.mainPage = s.mainPage)) ∧
    (rs.length = budget s.cfg.val sp → (∀ r ∈ rs, r.value ≠ s.page) →
      ∃ t, exec (.selectPage sp fc) s = .next t ∧ t.fsm = .idle ∧ t.done = true ∧ t.err = 4 ∧ t.cause = 1 ∧
        t.attempt.toNat = budget s.cfg.val sp ∧ t.errPhase = 18 ∧ t.errPage = s.page ∧ t.errSpace = sp ∧
        t.errReg = pageReg s.cfg.val sp ∧ t.rlen = 0 ∧ t.mainValid = false ∧ t.subValid = false ∧
        t.mainPage = s.mainPage ∧ t.subPage = s.subPage ∧ t.link.rx = rest ∧
        t.link.out = s.link.out
          ++ (List.replicate (budget s.cfg.val sp) (attemptOut s.cfg.val sp s.page)).flatten)

/-- Success of a page select (R244): whatever the partner did, a select that ends without an error verified the page
it records, within the budget, and left the other space's tracking alone (R250). -/
def Obligations.SelectPageSuccess : Prop :=
  ∀ (s t : State) (sp : BitVec 1) (fc : Nibble), s.resetIn = false → s.fsm = .idle →
    exec (.selectPage sp fc) s = .next t → t.err = 0 →
    t.fsm = .idle ∧ t.done = true ∧ byteAt t 0x600 = s.page ∧ t.rlen = 1 ∧
    1 ≤ t.attempt.toNat ∧ t.attempt.toNat ≤ budget s.cfg.val sp ∧
    (sp = 0 → t.mainValid = true ∧ t.mainPage = s.page ∧ t.subValid = s.subValid ∧ t.subPage = s.subPage) ∧
    (sp = 1 → t.subValid = true ∧ t.subPage = s.page ∧ t.mainValid = s.mainValid ∧ t.mainPage = s.mainPage)

/-- An error in any state of a select ends it (R246): the request is the run of its FSM steps up to the one that raised
the error, so no later frame is sent and nothing is retried; the phase is the state that raised it, and `ATTEMPT` is
what it was, so the error is not counted as a failed attempt. One such error in full: an acknowledge that is too short,
in any attempt within the budget, is FramingError `TRUNCATED` in PS_WR_RX, and `ATTEMPT` names the attempt. -/
def Obligations.SelectPageInnerError : Prop :=
  ∀ (s : State) (sp : BitVec 1) (fc : Nibble), s.resetIn = false → s.fsm = .idle →
    (∀ (k : Nat) (u t : State), u = fsmSteps k (accept 7 sp fc s) → t = fsmStep u → busy u = true → t.err ≠ 0 →
      exec (.selectPage sp fc) s = .next t ∧ t.done = true ∧
        (t.err = 1 → t.fsm = .faulted) ∧ (t.err ≠ 1 → t.fsm = .idle) ∧
        t.errPhase = fsmCode u.fsm ∧ t.attempt = u.attempt ∧
        t.errReg = pageReg s.cfg.val sp ∧ t.errPage = s.page ∧ t.errSpace = sp ∧ t.rlen = 0 ∧
        t.mainValid = false ∧ t.subValid = false ∧ t.mainPage = s.mainPage ∧ t.subPage = s.subPage) ∧
    (∀ (rs : List SelectReply) (h : Byte) (n : Nibble) (d : List Byte) (rest : List RxDraw),
      (∀ x ∈ s.link.tx, x = .ok) → (∀ r ∈ rs, r.good s.cfg.val) → (∀ r ∈ rs, r.value ≠ s.page) →
      rs.length < budget s.cfg.val sp → goodHeader s.cfg.val h n → d.length < s.cfg.val.wrAckLen →
      s.link.rx = arriving (rs.flatMap (SelectReply.wire s.cfg.val) ++ replyFrame s.cfg.val h d) ++ rest →
      ∃ t, exec (.selectPage sp fc) s = .next t ∧ t.fsm = .idle ∧ t.done = true ∧ t.err = 2 ∧ t.cause = 7 ∧
        t.errPhase = 13 ∧ t.attempt.toNat = rs.length + 1 ∧ t.errReg = pageReg s.cfg.val sp ∧ t.errPage = s.page ∧
        t.errSpace = sp ∧ t.rlen = 0 ∧ t.mainValid = false ∧ t.subValid = false ∧ t.link.rx = rest)

/-! ### The command port -/

/-- Acceptance (R110): a `CMD` write in IDLE latches the request, clears the fields the rule lists and enters
CHECK_ARGS; everything else is unchanged. It is also the return from an error (R307). In any other state the write is
dropped, and sets `OVERRUN` and nothing else (R113, R114). -/
def Obligations.AcceptanceClearsAndLatches : Prop :=
  ∀ (s : State) (v : Word), s.resetIn = false →
    (s.fsm ≠ .idle → hostWrite 0x000 v s = { s with overrun := true }) ∧
    (s.fsm = .idle → hostWrite 0x000 v s =
      { s with
        opl := v.extractLsb' 0 4
        spacel := v.extractLsb' 4 1
        fcmdl := v.extractLsb' 8 4
        done := false
        err := 0
        cause := 0
        errReg := 0
        errPage := 0
        errSpace := 0
        errPhase := 0
        attempt := 0
        rlen := 0
        statbyte := 0
        ack := 0
        rxhdr := 0
        rxhdrV := false
        fsm := .checkArgs })

/-- The nine reserved operations (R90, R112): the request is accepted and ends at once with BADREQ `RESERVED_OP`, with
no link traffic, no buffer write and no change of the tracked pages. -/
def Obligations.ReservedOperationsEndInBadReq : Prop :=
  ∀ (s : State) (i : Instr) (op : BitVec 4) (sp : BitVec 1) (fc : Nibble),
    commandOf i = some (op, sp, fc) → op = 0 ∨ 8 ≤ op.toNat → s.resetIn = false → s.fsm = .idle →
    exec i s = .next
      { accept op sp fc s with
        fsm := .idle
        done := true
        err := 5
        cause := 1
        errPhase := 19 }

/-- A length out of range (R112): BADREQ `LEN_RANGE`, with the register recorded for the two register operations, and
nothing done on the link. -/
def Obligations.LengthOutOfRange : Prop :=
  ∀ (s : State) (i : Instr) (op : BitVec 4) (sp : BitVec 1) (fc : Nibble),
    commandOf i = some (op, sp, fc) → s.resetIn = false → s.fsm = .idle →
    ((op = 1 ∨ op = 3) ∧ 512 < s.len.toNat ∨ op = 2 ∧ 1026 < s.len.toNat ∨
      op = 4 ∧ s.len.msb = false ∧ 512 < s.len.toNat ∨ op = 5 ∧ 255 < s.len.toNat ∨
      op = 6 ∧ 254 < s.len.toNat) →
    exec i s = .next
      { accept op sp fc s with
        fsm := .idle
        done := true
        err := 5
        cause := 2
        errPhase := 19
        errReg := if op = 5 ∨ op = 6 then s.reg else 0 }

/-- Requests that are turned away: while BUSY or while FAULTED one is dropped, which sets `OVERRUN` and changes nothing
else (R113, R114); while reset is asserted every request and every other host write is ignored (R340). -/
def Obligations.RequestsTurnedAway : Prop :=
  ∀ s : State,
    (∀ (i : Instr) (op : BitVec 4) (sp : BitVec 1) (fc : Nibble), commandOf i = some (op, sp, fc) →
      (s.resetIn = false → (busy s = true ∨ s.fsm = .faulted) → exec i s = .next { s with overrun := true }) ∧
      (s.resetIn = true → exec i s = .next s)) ∧
    (s.resetIn = true → ∀ (a : Nat) (v : Word), hostWrite a v s = s)

/-- Every accepted request ends (R111, R116, R302, R183): in one run it reaches IDLE or FAULTED with `DONE` set,
whatever the partner answers. -/
def Obligations.EveryRequestEnds : Prop :=
  ∀ (s : State) (i : Instr) (op : BitVec 4) (sp : BitVec 1) (fc : Nibble),
    commandOf i = some (op, sp, fc) → s.resetIn = false → s.fsm = .idle →
    ∃ t, exec i s = .next t ∧ t.done = true ∧ (t.fsm = .faulted ∧ t.err = 1 ∨ t.fsm = .idle ∧ t.err ≠ 1) ∧
      t.opl = op ∧ t.spacel = sp ∧ t.fcmdl = fc

/-- The whole-request meaning refines to the FSM: an accepted request is what the FSM's own steps, taken one by one
from CHECK_ARGS, make of it, and they are busy until they end (R111, R118). The bound is the model's count: the check
and seven states for each of at most seven attempts. -/
def Obligations.RequestIsFsmRun : Prop :=
  ∀ (s : State) (i : Instr) (op : BitVec 4) (sp : BitVec 1) (fc : Nibble),
    commandOf i = some (op, sp, fc) → s.resetIn = false → s.fsm = .idle →
    ∃ n, 1 ≤ n ∧ n ≤ 50 ∧ exec i s = .next (fsmSteps n (accept op sp fc s)) ∧
      busy (fsmSteps n (accept op sp fc s)) = false ∧
      ∀ k, k < n → busy (fsmSteps k (accept op sp fc s)) = true

/-! ### The message and frame rows -/

/-- M-RRS and M-RRT (R82, R83, R211, R213, R242) where the transmit succeeds: the message leaves as one frame and the
FSM goes on to the reply. -/
def Obligations.ReadMessagesTransmitted : Prop :=
  ∀ (s : State) (len r : Byte), txSucceeds 1 s →
    (s.fsm = .rrSetupTx ∨ s.fsm = .psRdSetupTx →
      exec (.mRrs len r) s = .next
        { s with
          fsm := if s.fsm = .rrSetupTx then .rrSetupRx else .psRdSetupRx
          txf := encodeFrame s.cfg.val s.cfg.val.txCmd (rrsBytes s.cfg.val len r)
          link := { s.link with
            tx := s.link.tx.drop 1
            out := s.link.out ++ encodeFrame s.cfg.val s.cfg.val.txCmd (rrsBytes s.cfg.val len r) } }) ∧
    (s.fsm = .rrTrigTx ∨ s.fsm = .psRdTrigTx →
      exec (.mRrt len) s = .next
        { s with
          fsm := if s.fsm = .rrTrigTx then .rrTrigRx else .psRdTrigRx
          txf := encodeFrame s.cfg.val s.cfg.val.txCmd (rrtBytes s.cfg.val len)
          link := { s.link with
            tx := s.link.tx.drop 1
            out := s.link.out ++ encodeFrame s.cfg.val s.cfg.val.txCmd (rrtBytes s.cfg.val len) } })

/-- M-WR (R84, R218, R220, R242) where the transmit succeeds: in WR_TX the tracking of a page register is cleared, in
PS_WR_TX that of the space being selected, before the frame leaves. -/
def Obligations.WriteMessageTransmitted : Prop :=
  ∀ (s : State) (r : Byte) (d : List Byte), txSucceeds 1 s →
    (s.fsm = .wrTx →
      exec (.mWr r d) s = .next
        { s with
          fsm := .wrRx
          mainValid := s.mainValid && r != s.cfg.val.mainPageReg
          subValid := s.subValid && r != s.cfg.val.subPageReg
          txf := encodeFrame s.cfg.val s.cfg.val.txCmd (wrBytes s.cfg.val r d)
          link := { s.link with
            tx := s.link.tx.drop 1
            out := s.link.out ++ encodeFrame s.cfg.val s.cfg.val.txCmd (wrBytes s.cfg.val r d) } }) ∧
    (s.fsm = .psWrTx →
      exec (.mWr r d) s = .next
        { s with
          fsm := .psWrRx
          mainValid := s.mainValid && s.spacel == 1
          subValid := s.subValid && s.spacel != 1
          txf := encodeFrame s.cfg.val s.cfg.val.txCmd (wrBytes s.cfg.val r d)
          link := { s.link with
            tx := s.link.tx.drop 1
            out := s.link.out ++ encodeFrame s.cfg.val s.cfg.val.txCmd (wrBytes s.cfg.val r d) } })

/-- M-WAKE and F-FRAME (R86, R87, R186) where the transmit succeeds: SEND_TX sends the frame, clears both valid bits
and completes. -/
def Obligations.SendRowsTransmitted : Prop :=
  ∀ (s : State) (c : Nibble) (d : List Byte), txSucceeds 1 s → s.fsm = .sendTx →
    exec .mWake s = .next
      { s with
        fsm := .idle
        done := true
        mainValid := false
        subValid := false
        txf := encodeFrame s.cfg.val 0 [0x11, 0x02, 0x64, 0x00, 0x00, 0x00, 0x00]
        link := { s.link with
          tx := s.link.tx.drop 1
          out := s.link.out ++ encodeFrame s.cfg.val 0 [0x11, 0x02, 0x64, 0x00, 0x00, 0x00, 0x00] } } ∧
    exec (.fFrame c d) s = .next
      { s with
        fsm := .idle
        done := true
        mainValid := false
        subValid := false
        txf := encodeFrame s.cfg.val c d
        link := { s.link with
          tx := s.link.tx.drop 1
          out := s.link.out ++ encodeFrame s.cfg.val c d } }

/-- A transmitted row whose transmit fails after `j` bytes (R180): a prefix is out, and the block is FAULTED with IoError
`TX_FAIL`, the phase being the TX state. -/
def Obligations.TransmitFailureFaults : Prop :=
  ∀ (s : State) (j : Nat) (i : Instr), s.link.tx.head? = some (.fail j) → carried s = some i →
    (wireOf s.cfg.val i ≠ []) →
    ∃ t, exec i s = .next t ∧ t.fsm = .faulted ∧ t.done = true ∧ t.err = 1 ∧ t.cause = 2 ∧
      t.errPhase = fsmCode s.fsm ∧ t.rlen = 0 ∧ t.mem = s.mem ∧ t.link.rx = s.link.rx ∧
      t.link.out = s.link.out ++ (wireOf s.cfg.val i).take j

/-- M-SACK (R85, R212): an empty reply, in either state that waits for one, lets the FSM go on to the trigger. -/
def Obligations.SetupAcknowledgeReceived : Prop :=
  ∀ (s : State) (h : Byte) (n : Nibble) (rest : List RxDraw),
    (s.fsm = .rrSetupRx ∨ s.fsm = .psRdSetupRx) → goodHeader s.cfg.val h n →
    s.link.rx = arriving (replyFrame s.cfg.val h []) ++ rest →
    exec .mSack s = .next
      { s with
        fsm := if s.fsm = .rrSetupRx then .rrTrigTx else .psRdTrigTx
        mem := s.mem.writeAll 0x800 [h, s.cfg.val.terminator]
        wlen := 2
        rxCount := 2
        timerFired := false
        rxhdrV := true
        rxhdr := n
        link := { s.link with rx := rest, arrived := s.link.arrived - 2 } }

/-- M-TREP (R85, R214, R242): the payload and the status byte, uninterpreted, stand in `RXBUF`; READ_REG completes,
SELECT_PAGE goes on to its check. -/
def Obligations.TriggerReplyReceived : Prop :=
  ∀ (s : State) (len : Byte) (h : Byte) (n : Nibble) (payload : List Byte) (st : Byte) (rest : List RxDraw),
    (s.fsm = .rrTrigRx ∨ s.fsm = .psRdTrigRx) → goodHeader s.cfg.val h n → payload.length = len.toNat →
    s.link.rx = arriving (replyFrame s.cfg.val h (payload ++ [st])) ++ rest →
    exec (.mTrep len) s = .next
      { s with
        fsm := if s.fsm = .rrTrigRx then .idle else .psCheck
        done := s.done || s.fsm == .rrTrigRx
        mem := (s.mem.writeAll 0x800 (replyFrame s.cfg.val h (payload ++ [st]))).writeAll 0x600 (payload ++ [st])
        wlen := BitVec.ofNat 11 (2 * len.toNat + 4)
        rxCount := 2 * len.toNat + 4
        timerFired := false
        rxhdrV := true
        rxhdr := n
        rlen := BitVec.ofNat 11 len.toNat
        statbyte := st
        link := { s.link with rx := rest, arrived := s.link.arrived - (2 * len.toNat + 4) } }

/-- M-WACK (R85, R219, R242): the acknowledge stands unchecked in `ACK`; WRITE_REG also keeps it in `RXBUF[0]` and
completes, SELECT_PAGE goes on to the read-back. -/
def Obligations.WriteAcknowledgeReceived : Prop :=
  ∀ (s : State) (h : Byte) (n : Nibble) (a : Byte) (more : List Byte) (rest : List RxDraw),
    goodHeader s.cfg.val h n → more.length + 1 = s.cfg.val.wrAckLen →
    s.link.rx = arriving (replyFrame s.cfg.val h (a :: more)) ++ rest →
    (s.fsm = .wrRx →
      exec .mWack s = .next
        { s with
          fsm := .idle
          done := true
          mem := (s.mem.writeAll 0x800 (replyFrame s.cfg.val h (a :: more))).writeAll 0x600 [a]
          wlen := BitVec.ofNat 11 (2 * s.cfg.val.wrAckLen + 2)
          rxCount := 2 * s.cfg.val.wrAckLen + 2
          timerFired := false
          rxhdrV := true
          rxhdr := n
          rlen := 1
          ack := a
          link := { s.link with rx := rest, arrived := s.link.arrived - (2 * s.cfg.val.wrAckLen + 2) } }) ∧
    (s.fsm = .psWrRx →
      exec .mWack s = .next
        { s with
          fsm := .psRdSetupTx
          mem := s.mem.writeAll 0x800 (replyFrame s.cfg.val h (a :: more))
          wlen := BitVec.ofNat 11 (2 * s.cfg.val.wrAckLen + 2)
          rxCount := 2 * s.cfg.val.wrAckLen + 2
          timerFired := false
          rxhdrV := true
          rxhdr := n
          ack := a
          link := { s.link with rx := rest, arrived := s.link.arrived - (2 * s.cfg.val.wrAckLen + 2) } })

/-- A message or frame row in a state that does not carry it changes nothing. The model's choice (DEDUCED,
notes/assumptions/7.md): the machine never takes such a row. -/
def Obligations.RowsOutOfPlaceDoNothing : Prop :=
  ∀ (s : State) (x y : Byte) (c : Nibble) (d : List Byte),
    (s.fsm ≠ .rrSetupTx → s.fsm ≠ .psRdSetupTx → exec (.mRrs x y) s = .next s) ∧
    (s.fsm ≠ .rrTrigTx → s.fsm ≠ .psRdTrigTx → exec (.mRrt x) s = .next s) ∧
    (s.fsm ≠ .wrTx → s.fsm ≠ .psWrTx → exec (.mWr x d) s = .next s) ∧
    (s.fsm ≠ .rrSetupRx → s.fsm ≠ .psRdSetupRx → exec .mSack s = .next s) ∧
    (s.fsm ≠ .rrTrigRx → s.fsm ≠ .psRdTrigRx → exec (.mTrep x) s = .next s) ∧
    (s.fsm ≠ .wrRx → s.fsm ≠ .psWrRx → exec .mWack s = .next s) ∧
    (s.fsm ≠ .sendTx → exec .mWake s = .next s ∧ exec (.fFrame c d) s = .next s)

/-! ### Errors -/

/-- Error entry (R302, R305, R306): whenever a step of the FSM in a request ends in an error, class and cause are those
of a check that the state makes (R301, R310), the phase is the state, the context fields are those of the operation, the
result is marked absent, the request is done, an IoError faults the block and any other error returns it to IDLE, and
the tracked pages are invalidated exactly as R249 says. Kept are the latched request and its operands, `ATTEMPT`, `ACK`,
`STATBYTE`, the tracked page values, `OVERRUN`, and every byte of `TXBUF` and `RXBUF`; outside the RX states `WLEN` and
every byte of `WIREBUF` too, and outside those and DEC_RUN the header fields. -/
def Obligations.FsmErrorEntry : Prop :=
  ∀ s t : State, BlockInv s → busy s = true → t = fsmStep s → t.err ≠ 0 →
    (∃ e, mayRaise s.fsm e = true ∧ t.err = errCode (classOf e) ∧ t.cause = causeCode e) ∧
    t.errPhase = fsmCode s.fsm ∧ t.rlen = 0 ∧ t.done = true ∧
    (t.err = 1 → t.fsm = .faulted) ∧ (t.err ≠ 1 → t.fsm = .idle) ∧
    ((s.opl = 5 ∨ s.opl = 6) → t.errReg = s.reg) ∧
    (s.opl = 7 → t.errReg = pageReg s.cfg.val s.spacel ∧ t.errPage = s.page ∧ t.errSpace = s.spacel) ∧
    (s.opl ≠ 5 ∧ s.opl ≠ 6 ∧ s.opl ≠ 7 → t.errReg = 0) ∧
    (s.opl ≠ 7 → t.errPage = 0 ∧ t.errSpace = 0) ∧
    (t.err ≠ 5 → 3 ≤ s.opl.toNat ∧ s.opl.toNat ≤ 7 → t.mainValid = false ∧ t.subValid = false) ∧
    (t.err = 5 ∨ s.opl = 1 ∨ s.opl = 2 → t.mainValid = s.mainValid ∧ t.subValid = s.subValid) ∧
    (t.opl = s.opl ∧ t.spacel = s.spacel ∧ t.fcmdl = s.fcmdl ∧ t.reg = s.reg ∧ t.len = s.len ∧ t.page = s.page) ∧
    (t.attempt = s.attempt ∧ t.ack = s.ack ∧ t.statbyte = s.statbyte ∧ t.mainPage = s.mainPage ∧
      t.subPage = s.subPage ∧ t.overrun = s.overrun) ∧
    (∀ a, a < 0x800 → byteAt t a = byteAt s a) ∧
    (isRxState s.fsm = false → t.wlen = s.wlen ∧ ∀ a, byteAt t a = byteAt s a) ∧
    (isRxState s.fsm = false → s.fsm ≠ .decRun → t.rxhdr = s.rxhdr ∧ t.rxhdrV = s.rxhdrV)

/-- Invalidation on errors (R249): an accepted request of SEND to SELECT_PAGE that ends in an error other than BADREQ
clears both valid bits; BADREQ, and an error of ENC or DEC, leaves the tracked pages unchanged. -/
def Obligations.ErrorsInvalidateTracking : Prop :=
  ∀ (s t : State) (i : Instr) (op : BitVec 4) (sp : BitVec 1) (fc : Nibble),
    commandOf i = some (op, sp, fc) → s.resetIn = false → s.fsm = .idle → exec i s = .next t → t.err ≠ 0 →
    (3 ≤ op.toNat ∧ op.toNat ≤ 7 ∧ t.err ≠ 5 → t.mainValid = false ∧ t.subValid = false) ∧
    (op = 1 ∨ op = 2 ∨ t.err = 5 →
      t.mainValid = s.mainValid ∧ t.mainPage = s.mainPage ∧ t.subValid = s.subValid ∧ t.subPage = s.subPage)

/-- Only reset leaves FAULTED (R303, R114): any other step keeps the state and the error fields. -/
def Obligations.FaultedUntilReset : Prop :=
  ∀ s t : State, s.fsm = .faulted → s.resetIn = false → step s = .next t →
    (∀ j, s.sched.head? ≠ some (.assertReset j)) →
    t.fsm = .faulted ∧ t.err = s.err ∧ t.cause = s.cause ∧ t.errReg = s.errReg ∧ t.errPage = s.errPage ∧
      t.errSpace = s.errSpace ∧ t.errPhase = s.errPhase ∧ t.link.out = s.link.out

/-! ### Frames and whole-machine rules -/

/-- Operand stability (R118, R115): no instruction changes the operand registers, `TXBUF`, the configuration, the reset
input, or what belongs to the host and the schedule. -/
def Obligations.OperandsStable : Prop :=
  ∀ (i : Instr) (s t : State), exec i s = .next t →
    t.reg = s.reg ∧ t.len = s.len ∧ t.page = s.page ∧ t.cfg = s.cfg ∧ t.resetIn = s.resetIn ∧
      t.sched = s.sched ∧ t.rdata = s.rdata ∧ t.period = s.period ∧ t.draws = s.draws ∧
      ∀ a, a < 0x600 → byteAt t a = byteAt s a

/-- Which bytes of memory the requests write (R81, R162, R163, R182, R187, R210, R217, R242): ENC its frame in
`WIREBUF`; DEC its bytes in `RXBUF`; SEND and the reserved operations none; the receiving operations at most the
window of their receives in `WIREBUF` and their result in `RXBUF`. Every other byte reads as before. -/
def Obligations.RequestMemoryFrame : Prop :=
  ∀ (s t : State) (sp : BitVec 1) (fc : Nibble) (a : Nat),
    (exec (.enc sp fc) s = .next t → (a < 0x800 ∨ 0x800 + (2 * s.len.toNat + 2) ≤ a) → byteAt t a = byteAt s a) ∧
    (exec (.dec sp fc) s = .next t → (a < 0x600 ∨ 0x600 + (s.len.toNat - 2) / 2 ≤ a) → byteAt t a = byteAt s a) ∧
    (exec (.send sp fc) s = .next t → byteAt t a = byteAt s a) ∧
    (∀ (i : Instr) (op : BitVec 4), commandOf i = some (op, sp, fc) → (op = 0 ∨ 8 ≤ op.toNat) →
      exec i s = .next t → byteAt t a = byteAt s a) ∧
    (exec (.recv sp fc) s = .next t →
      (a < 0x600 ∨ 0x600 + (recvLength s).1 ≤ a) → (a < 0x800 ∨ 0x800 + wireWindow (recvLength s).1 ≤ a) →
      byteAt t a = byteAt s a) ∧
    (exec (.readReg sp fc) s = .next t →
      (a < 0x600 ∨ 0x600 + (s.len.toNat + 1) ≤ a) →
      (a < 0x800 ∨ 0x800 + max (wireWindow s.cfg.val.setupAckLen) (wireWindow (s.len.toNat + 1)) ≤ a) →
      byteAt t a = byteAt s a) ∧
    (exec (.writeReg sp fc) s = .next t →
      a ≠ 0x600 → (a < 0x800 ∨ 0x800 + wireWindow s.cfg.val.wrAckLen ≤ a) → byteAt t a = byteAt s a) ∧
    (exec (.selectPage sp fc) s = .next t →
      a ≠ 0x600 → a ≠ 0x601 →
      (a < 0x800 ∨
        0x800 + max (max (wireWindow s.cfg.val.wrAckLen) (wireWindow s.cfg.val.setupAckLen)) (wireWindow 2) ≤ a) →
      byteAt t a = byteAt s a)

/-- ENC, DEC and the reserved operations use no link and no tracked page (R162, R163, R90, R249). -/
def Obligations.CodecUsesNoLink : Prop :=
  ∀ (s t : State) (i : Instr) (op : BitVec 4) (sp : BitVec 1) (fc : Nibble),
    commandOf i = some (op, sp, fc) → (op.toNat ≤ 2 ∨ 8 ≤ op.toNat) → exec i s = .next t →
    t.link = s.link ∧ t.txf = s.txf ∧ t.rxCount = s.rxCount ∧ t.timerFired = s.timerFired ∧
      t.mainValid = s.mainValid ∧ t.mainPage = s.mainPage ∧ t.subValid = s.subValid ∧ t.subPage = s.subPage

/-- The tracked pages decide nothing (R248): two machines that differ in them, and in what the host last read, alone
still differ in no more after a step, and stop for the same reason or not at all. -/
def Obligations.TrackedPagesDecideNothing : Prop :=
  ∀ s t : State, sameButTracking s t →
    match step s, step t with
    | .next s1, .next t1 => sameButTracking s1 t1
    | .fault f, .fault g => f = g
    | .refused f, .refused g => f = g
    | _, _ => False

/-- No step changes the cipher tables or the parameters (R31, R74, R345). -/
def Obligations.ConfigurationNeverChanges : Prop :=
  ∀ s t : State, step s = .next t → t.cfg = s.cfg

/-- Only reset clears `OVERRUN` (R29). -/
def Obligations.OverrunIsSticky : Prop :=
  ∀ s t : State, s.overrun = true → step s = .next t →
    (∀ j, s.sched.head? ≠ some (.assertReset j)) →
    ¬ (s.sched.head? = some .releaseReset ∧ s.resetIn = true) → t.overrun = true

/-- Link effects already made stay made (R342, R70): the outbound stream only grows. -/
def Obligations.OutboundStreamGrows : Prop :=
  ∀ s t : State, step s = .next t → s.link.out <+: t.link.out

/-! ### The host's accesses -/

/-- Host writes by offset (R115, R38 to R40, R49): an operand write is dropped with `OVERRUN` while BUSY, and otherwise
the register takes the field's bits, reserved bits being ignored; a write to a read-only register, to `RXBUF` or to a
reserved offset is ignored and sets no `OVERRUN`, busy or not. That the word at 0xC00, of which only two bytes hold
storage, counts as a `WIREBUF` write and so sets `OVERRUN` while BUSY is the model's choice (DEDUCED,
notes/assumptions/22.md). -/
def Obligations.HostWritesByOffset : Prop :=
  ∀ (s : State) (v : Word), s.resetIn = false →
    (busy s = true → ∀ a, a = 0x008 ∨ a = 0x00C ∨ a = 0x010 ∨ (0x400 ≤ a ∧ a < 0x600) ∨ (0x800 ≤ a ∧ a < 0xC04) →
      hostWrite a v s = { s with overrun := true }) ∧
    (busy s = false →
      hostWrite 0x008 v s = { s with reg := v.extractLsb' 0 8 } ∧
      hostWrite 0x00C v s = { s with len := v.extractLsb' 0 16 } ∧
      hostWrite 0x010 v s = { s with page := v.extractLsb' 0 8 }) ∧
    (∀ a, a = 0x004 ∨ (0x014 ≤ a ∧ a < 0x400) ∨ (0x600 ≤ a ∧ a < 0x800) ∨ 0xC04 ≤ a → hostWrite a v s = s)

/-- A word written to `TXBUF` or `WIREBUF` reads back, little-endian, and no other byte changes (R48, R61); of the last
word of `WIREBUF` only the two bytes that are stored (notes/assumptions/22.md). -/
def Obligations.BufferWordsReadBack : Prop :=
  ∀ (s : State) (v : Word) (a : Nat), s.resetIn = false → busy s = false → s.mem.wf = true → a % 4 = 0 →
    ((0x400 ≤ a ∧ a < 0x600) ∨ (0x800 ≤ a ∧ a < 0xC00) →
      readWord (hostWrite a v s) a = v ∧ byteAt (hostWrite a v s) a = v.extractLsb' 0 8 ∧
      ∀ b, (b < a ∨ a + 4 ≤ b) → byteAt (hostWrite a v s) b = byteAt s b) ∧
    (a = 0xC00 → readWord (hostWrite a v s) a = v &&& 0x0000FFFF ∧
      ∀ b, (b < a ∨ a + 2 ≤ b) → byteAt (hostWrite a v s) b = byteAt s b)

/-- Host reads have no side effect on the block (R67). `STATUS` is exact in every state, while BUSY and while reset is
asserted too (R71). Outside reset, any offset reads its word when no request is in progress, and, while one is, so does
every offset but those R70 lists: RESULT, ERRINFO, PAGETRK, WLENR, RXBUF and WIREBUF. -/
def Obligations.HostReadsArePure : Prop :=
  ∀ (s : State) (a : Nat),
    (∃ v n, hostRead a s = { s with rdata := v, draws := n }) ∧
    hostRead 0x004 s = { s with rdata := statusWord s } ∧
    (s.resetIn = false → busy s = false → hostRead a s = { s with rdata := readWord s a }) ∧
    (s.resetIn = false → (a < 0x014 ∨ (0x020 ≤ a ∧ a < 0x028) ∨ (0x02C ≤ a ∧ a < 0x600) ∨ 0xC04 ≤ a) →
      hostRead a s = { s with rdata := readWord s a })

/-- Reserved bits read 0 (R90 for `CMD`, R36 to R46, R48, R49), in every state, while reset is asserted too. Only a read
of a register that R70 leaves any value is excepted while BUSY (that the exception covers its reserved bits is the
model's choice, notes/assumptions/26.md). -/
def Obligations.ReservedBitsReadZero : Prop :=
  ∀ s : State,
    ((hostRead 0x000 s).rdata &&& 0xFFFFF0E0 = 0 ∧ (hostRead 0x004 s).rdata &&& 0x07000000 = 0 ∧
      (hostRead 0x008 s).rdata &&& 0xFFFFFF00 = 0 ∧ (hostRead 0x00C s).rdata &&& 0xFFFF0000 = 0 ∧
      (hostRead 0x010 s).rdata &&& 0xFFFFFF00 = 0 ∧ (hostRead 0x020 s).rdata &&& 0x00000088 = 0 ∧
      (hostRead 0x024 s).rdata &&& 0x8800F800 = 0) ∧
    (busy s = false →
      (hostRead 0x014 s).rdata &&& 0x0000F800 = 0 ∧ (hostRead 0x018 s).rdata &&& 0xE0FE0000 = 0 ∧
      (hostRead 0x01C s).rdata &&& 0xFE00FE00 = 0 ∧ (hostRead 0x028 s).rdata &&& 0xFFFFF800 = 0) ∧
    (busy s = false → s.mem.wf = true → (hostRead 0xC00 s).rdata &&& 0xFFFF0000 = 0) ∧
    ∀ a, (0x02C ≤ a ∧ a < 0x040) ∨ (0x050 ≤ a ∧ a < 0x400) ∨ 0xC04 ≤ a → (hostRead a s).rdata = 0

/-- The fields of the readable registers stand at their bits, and reserved bits read 0: `STATUS` (R37), `CMD` (R36),
`REG`, `LEN`, `PAGE` (R38 to R40), `RESULT`, `ERRINFO`, `PAGETRK` (R41 to R43), `PARAM0`, `PARAM1` (R44, R45) and
`WLENR` (R46). -/
def Obligations.RegisterWordsLayout : Prop :=
  ∀ s : State,
    ((readWord s 0x004).getLsbD 0 = busy s ∧ (readWord s 0x004).getLsbD 1 = s.done ∧
      (readWord s 0x004).getLsbD 2 = (s.fsm == .faulted) ∧ (readWord s 0x004).getLsbD 3 = s.overrun ∧
      (readWord s 0x004).extractLsb' 4 4 = s.err ∧ (readWord s 0x004).extractLsb' 8 8 = s.cause ∧
      (readWord s 0x004).extractLsb' 16 3 = s.attempt ∧ (readWord s 0x004).getLsbD 19 = s.rxhdrV ∧
      (readWord s 0x004).extractLsb' 20 4 = s.rxhdr ∧ (readWord s 0x004).extractLsb' 24 3 = 0 ∧
      (readWord s 0x004).extractLsb' 27 5 = fsmCode s.fsm) ∧
    ((readWord s 0x000).extractLsb' 0 4 = s.opl ∧ (readWord s 0x000).extractLsb' 4 1 = s.spacel ∧
      (readWord s 0x000).extractLsb' 5 3 = 0 ∧ (readWord s 0x000).extractLsb' 8 4 = s.fcmdl ∧
      (readWord s 0x000).extractLsb' 12 20 = 0) ∧
    ((readWord s 0x008).extractLsb' 0 8 = s.reg ∧ (readWord s 0x008).extractLsb' 8 24 = 0 ∧
      (readWord s 0x00C).extractLsb' 0 16 = s.len ∧ (readWord s 0x00C).extractLsb' 16 16 = 0 ∧
      (readWord s 0x010).extractLsb' 0 8 = s.page ∧ (readWord s 0x010).extractLsb' 8 24 = 0) ∧
    ((readWord s 0x014).extractLsb' 0 11 = s.rlen ∧ (readWord s 0x014).extractLsb' 11 5 = 0 ∧
      (readWord s 0x014).extractLsb' 16 8 = s.statbyte ∧ (readWord s 0x014).extractLsb' 24 8 = s.ack) ∧
    ((readWord s 0x018).extractLsb' 0 8 = s.errReg ∧ (readWord s 0x018).extractLsb' 8 8 = s.errPage ∧
      (readWord s 0x018).extractLsb' 16 1 = s.errSpace ∧ (readWord s 0x018).extractLsb' 17 7 = 0 ∧
      (readWord s 0x018).extractLsb' 24 5 = s.errPhase ∧ (readWord s 0x018).extractLsb' 29 3 = 0) ∧
    ((readWord s 0x01C).extractLsb' 0 8 = s.mainPage ∧ (readWord s 0x01C).getLsbD 8 = s.mainValid ∧
      (readWord s 0x01C).extractLsb' 9 7 = 0 ∧ (readWord s 0x01C).extractLsb' 16 8 = s.subPage ∧
      (readWord s 0x01C).getLsbD 24 = s.subValid ∧ (readWord s 0x01C).extractLsb' 25 7 = 0) ∧
    ((readWord s 0x020).extractLsb' 0 3 = s.cfg.val.nMain ∧ (readWord s 0x020).getLsbD 3 = false ∧
      (readWord s 0x020).extractLsb' 4 3 = s.cfg.val.nSub ∧ (readWord s 0x020).getLsbD 7 = false ∧
      (readWord s 0x020).extractLsb' 8 8 = s.cfg.val.mainPageReg ∧
      (readWord s 0x020).extractLsb' 16 8 = s.cfg.val.subPageReg ∧
      (readWord s 0x020).extractLsb' 24 8 = s.cfg.val.hdrMask) ∧
    ((readWord s 0x024).extractLsb' 0 11 = 512 ∧ (readWord s 0x024).extractLsb' 11 5 = 0 ∧
      (readWord s 0x024).extractLsb' 16 11 = 1026 ∧ (readWord s 0x024).getLsbD 27 = false ∧
      (readWord s 0x024).extractLsb' 28 3 = s.cfg.val.replySentinel ∧ (readWord s 0x024).getLsbD 31 = false) ∧
    ((readWord s 0x028).extractLsb' 0 11 = s.wlen ∧ (readWord s 0x028).extractLsb' 11 21 = 0)

/-- Byte `k` of the `CIPHER` window reads `S[k]`, little-endian in its word (R47, R61), and a reserved offset reads 0
(R49). -/
def Obligations.CipherWindowAndReserved : Prop :=
  ∀ s : State,
    (∀ k, k < 16 →
      (readWord s (0x040 + k / 4 * 4)).extractLsb' (8 * (k % 4)) 8 = s.cfg.val.symbol (BitVec.ofNat 4 k)) ∧
    (∀ a, (0x02C ≤ a ∧ a < 0x040) ∨ (0x050 ≤ a ∧ a < 0x400) ∨ 0xC04 ≤ a → readWord s a = 0)

/-- An access of another width, or at an offset that is no multiple of 4, is refused (R62); a proper access inside the
window answers a next state. -/
def Obligations.ImproperAccessesRefused : Prop :=
  ∀ (s : State) (width a : Nat) (v : Word),
    (width ≠ 4 → hostAccess (.read width a) s = .refused .hostWidth ∧
      hostAccess (.write width a v) s = .refused .hostWidth) ∧
    (a % 4 ≠ 0 → hostAccess (.read 4 a) s = .refused .hostMisaligned ∧
      hostAccess (.write 4 a v) s = .refused .hostMisaligned) ∧
    (a % 4 = 0 → a < 0x1000 → hostAccess (.read 4 a) s = .next (hostRead a s) ∧
      hostAccess (.write 4 a v) s = .next (hostWrite a v s))

/-! ### Reset and steps -/

/-- Reset (R340, R50, R342 to R345): asserted and released in any state, it leaves every stored field 0 and the FSM in
IDLE, discards the scratch, the timer and the inbound bytes queued at the block's side, keeps the constants, and in a
TX state a prefix of the frame has left. No buffer byte counts as written afterwards: each reads any value
(notes/assumptions/2.md). -/
def Obligations.ResetLeaves : Prop :=
  ∀ (s t : State) (j : Nat), releaseReset (assertReset j s) = t →
    t.fsm = .idle ∧ t.opl = 0 ∧ t.spacel = 0 ∧ t.fcmdl = 0 ∧ t.reg = 0 ∧ t.len = 0 ∧ t.page = 0 ∧
    t.attempt = 0 ∧ t.mainValid = false ∧ t.mainPage = 0 ∧ t.subValid = false ∧ t.subPage = 0 ∧ t.rlen = 0 ∧
    t.statbyte = 0 ∧ t.ack = 0 ∧ t.wlen = 0 ∧ t.err = 0 ∧ t.cause = 0 ∧ t.errReg = 0 ∧ t.errPage = 0 ∧
    t.errSpace = 0 ∧ t.errPhase = 0 ∧ t.done = false ∧ t.overrun = false ∧ t.rxhdr = 0 ∧ t.rxhdrV = false ∧
    t.timerFired = false ∧ t.txf = [] ∧ t.rxCount = 0 ∧ t.mem = [] ∧ t.resetIn = false ∧ t.cfg = s.cfg ∧
    t.link.rx = s.link.rx.drop s.link.arrived ∧ t.link.arrived = 0 ∧
    t.link.out = s.link.out ++ (frameInTx s).take j

/-- A step takes the turn at the head of the list, on the state with that turn taken off it. A host request runs the
instruction its word decodes to, the FSM's turn the row the current state carries, and a state without a row acts on its
own; an access of the host, a step of the link partner, and the two edges of the reset input are those turns' whole
effect. With no turn listed, the FSM has the turn. -/
def Obligations.StepRunsTheInstruction : Prop :=
  ∀ (s : State) (rest : List Turn),
    (∀ w i, s.sched = .request w :: rest → decode s.cfg.val (.command w) = .ok i →
      step s = exec i { s with sched := rest }) ∧
    (s.sched = .fsm :: rest →
      (∀ i, carried s = some i → step s = exec i { s with sched := rest }) ∧
      (carried s = none → step s = .next (fsmStep { s with sched := rest }))) ∧
    (s.sched = [] →
      (∀ i, carried s = some i → step s = exec i s) ∧ (carried s = none → step s = .next (fsmStep s))) ∧
    (∀ access, s.sched = .host access :: rest → step s = hostAccess access { s with sched := rest }) ∧
    (∀ answers, s.sched = .partner (.supply answers) :: rest →
      step s = .next { s with sched := rest, link := { s.link with rx := s.link.rx ++ answers } }) ∧
    (∀ count, s.sched = .partner (.arrive count) :: rest →
      step s = .next { s with
        sched := rest
        link := { s.link with arrived := min (s.link.arrived + count) s.link.rx.length } }) ∧
    (∀ answer, s.sched = .partner (.answerTx answer) :: rest →
      step s = .next { s with sched := rest, link := { s.link with tx := s.link.tx ++ [answer] } }) ∧
    (∀ sent, s.sched = .assertReset sent :: rest → step s = .next (assertReset sent { s with sched := rest })) ∧
    (s.sched = .releaseReset :: rest → step s = .next (releaseReset { s with sched := rest }))

/-- The row a state carries is well formed and its step is the state's action (R21, R111). -/
def Obligations.FsmTurnIsStateAction : Prop :=
  ∀ s : State, fsmTurn s = .next (fsmStep s) ∧
    (BlockInv s → ∀ i, carried s = some i → i.wf = true)

/-- Every step keeps the invariant, from every state that has it. -/
def Obligations.StepKeepsInvariant : Prop :=
  ∀ s t : State, BlockInv s → step s = .next t → BlockInv t

/-- The state after reset has the invariant. -/
def Obligations.ResetHasInvariant : Prop := BlockInv State.reset
end

