-- ==== Sys2Proof/Laws/Codec.lean ====
section
/-! SUPPORT. What the frame codec can answer: the inversion of the decoder, and lengths. -/
namespace Sys2Proof.Machine

open Sys2Proof

@[simp] theorem encPair_length (c : Config) (b : Byte) : (encPair c b).length = 2 := rfl

@[simp] theorem frameData_length (w : List Byte) : (frameData w).length = w.length - 2 := by
  simp [frameData]; omega

/-- Two symbols for every logical byte. -/
theorem flatMap_encPair_length (c : Config) (d : List Byte) : (d.flatMap (encPair c)).length = 2 * d.length := by
  induction d with
  | nil => rfl
  | cons b d ih => simp [ih]; omega

/-- Decoded pairs: one logical byte for every two symbols. -/
theorem decodePairs_length (c : Config) :
    ∀ (w out : List Byte), decodePairs c w = some out → w.length = 2 * out.length
  | [], out, h => by simp [decodePairs] at h; simp [h]
  | [_], out, h => by simp [decodePairs] at h
  | wl :: wh :: rest, out, h => by
    simp only [decodePairs] at h
    split at h
    · rename_i b o _ ho
      simp only [Option.some.injEq] at h
      have := decodePairs_length c rest o ho
      simp only [← h, List.length_cons]; omega
    · simp at h

/-- What the decoder can answer: an error of class FRAMING, or the header and the bytes, every check having passed. -/
theorem decodeFrame_cases (c : Config) (w : List Byte) :
    (∃ e, decodeFrame c w = .error e ∧ classOf e = .framing) ∨
      ∃ h out, decodeFrame c w = .ok (h, out) ∧ 2 ≤ w.length ∧ w.length % 2 = 0 ∧
        w.getLast? = some c.terminator ∧ hdrDecode c (w.headD 0) = some h ∧ sentinelOk c h = true ∧
        decodePairs c (frameData w) = some out := by
  unfold decodeFrame
  split
  · exact .inl ⟨_, rfl, rfl⟩
  split
  · exact .inl ⟨_, rfl, rfl⟩
  split
  · exact .inl ⟨_, rfl, rfl⟩
  rename_i h1 h2 h3
  split
  · exact .inl ⟨_, rfl, rfl⟩
  rename_i h hh
  split
  · rename_i hs
    split
    · rename_i out ho
      exact .inr ⟨h, out, rfl, by omega, by omega, not_not.mp h3, hh, hs, ho⟩
    · exact .inl ⟨_, rfl, rfl⟩
  · exact .inl ⟨_, rfl, rfl⟩

/-- The mode check can raise `TRUNCATED` in EXACT mode and `SETUP_REPLY_NONEMPTY` in EMPTY mode, and nothing else. -/
theorem modeCheck_cases (l : Nat) (mode : RxMode) (k : Nat) :
    modeCheck l mode k = none ∨ (mode = .exact ∧ k ≠ l ∧ modeCheck l mode k = some .truncated) ∨
      (mode = .empty ∧ k ≠ 0 ∧ modeCheck l mode k = some .setupReplyNonempty) := by
  cases mode with
  | exact => by_cases h : k = l <;> simp [modeCheck, h]
  | upTo => exact .inl rfl
  | empty => by_cases h : k = 0 <;> simp [modeCheck, h]

end Sys2Proof.Machine
end

