-- ==== Sys2Proof/Laws/State.lean ====
section
/-! SUPPORT. What each named update of the state leaves in each field: one lemma per field per update, each true by
rfl. -/
namespace Sys2Proof.Machine

open Sys2Proof

/-! ### goto -/

@[simp] theorem goto_cfg (x : FsmState) (s : State) : (goto x s).cfg = s.cfg := rfl
@[simp] theorem goto_fsm (x : FsmState) (s : State) : (goto x s).fsm = x := rfl
@[simp] theorem goto_opl (x : FsmState) (s : State) : (goto x s).opl = s.opl := rfl
@[simp] theorem goto_spacel (x : FsmState) (s : State) : (goto x s).spacel = s.spacel := rfl
@[simp] theorem goto_fcmdl (x : FsmState) (s : State) : (goto x s).fcmdl = s.fcmdl := rfl
@[simp] theorem goto_reg (x : FsmState) (s : State) : (goto x s).reg = s.reg := rfl
@[simp] theorem goto_len (x : FsmState) (s : State) : (goto x s).len = s.len := rfl
@[simp] theorem goto_page (x : FsmState) (s : State) : (goto x s).page = s.page := rfl
@[simp] theorem goto_attempt (x : FsmState) (s : State) : (goto x s).attempt = s.attempt := rfl
@[simp] theorem goto_mainValid (x : FsmState) (s : State) : (goto x s).mainValid = s.mainValid := rfl
@[simp] theorem goto_mainPage (x : FsmState) (s : State) : (goto x s).mainPage = s.mainPage := rfl
@[simp] theorem goto_subValid (x : FsmState) (s : State) : (goto x s).subValid = s.subValid := rfl
@[simp] theorem goto_subPage (x : FsmState) (s : State) : (goto x s).subPage = s.subPage := rfl
@[simp] theorem goto_mem (x : FsmState) (s : State) : (goto x s).mem = s.mem := rfl
@[simp] theorem goto_rlen (x : FsmState) (s : State) : (goto x s).rlen = s.rlen := rfl
@[simp] theorem goto_statbyte (x : FsmState) (s : State) : (goto x s).statbyte = s.statbyte := rfl
@[simp] theorem goto_ack (x : FsmState) (s : State) : (goto x s).ack = s.ack := rfl
@[simp] theorem goto_wlen (x : FsmState) (s : State) : (goto x s).wlen = s.wlen := rfl
@[simp] theorem goto_err (x : FsmState) (s : State) : (goto x s).err = s.err := rfl
@[simp] theorem goto_cause (x : FsmState) (s : State) : (goto x s).cause = s.cause := rfl
@[simp] theorem goto_errReg (x : FsmState) (s : State) : (goto x s).errReg = s.errReg := rfl
@[simp] theorem goto_errPage (x : FsmState) (s : State) : (goto x s).errPage = s.errPage := rfl
@[simp] theorem goto_errSpace (x : FsmState) (s : State) : (goto x s).errSpace = s.errSpace := rfl
@[simp] theorem goto_errPhase (x : FsmState) (s : State) : (goto x s).errPhase = s.errPhase := rfl
@[simp] theorem goto_done (x : FsmState) (s : State) : (goto x s).done = s.done := rfl
@[simp] theorem goto_overrun (x : FsmState) (s : State) : (goto x s).overrun = s.overrun := rfl
@[simp] theorem goto_rxhdr (x : FsmState) (s : State) : (goto x s).rxhdr = s.rxhdr := rfl
@[simp] theorem goto_rxhdrV (x : FsmState) (s : State) : (goto x s).rxhdrV = s.rxhdrV := rfl
@[simp] theorem goto_timerFired (x : FsmState) (s : State) : (goto x s).timerFired = s.timerFired := rfl
@[simp] theorem goto_txf (x : FsmState) (s : State) : (goto x s).txf = s.txf := rfl
@[simp] theorem goto_rxCount (x : FsmState) (s : State) : (goto x s).rxCount = s.rxCount := rfl
@[simp] theorem goto_resetIn (x : FsmState) (s : State) : (goto x s).resetIn = s.resetIn := rfl
@[simp] theorem goto_link (x : FsmState) (s : State) : (goto x s).link = s.link := rfl
@[simp] theorem goto_sched (x : FsmState) (s : State) : (goto x s).sched = s.sched := rfl
@[simp] theorem goto_rdata (x : FsmState) (s : State) : (goto x s).rdata = s.rdata := rfl
@[simp] theorem goto_period (x : FsmState) (s : State) : (goto x s).period = s.period := rfl
@[simp] theorem goto_draws (x : FsmState) (s : State) : (goto x s).draws = s.draws := rfl

/-! ### advance -/

@[simp] theorem advance_cfg (s : State) : (advance s).cfg = s.cfg := rfl
@[simp] theorem advance_fsm (s : State) : (advance s).fsm = followState s.fsm := rfl
@[simp] theorem advance_opl (s : State) : (advance s).opl = s.opl := rfl
@[simp] theorem advance_spacel (s : State) : (advance s).spacel = s.spacel := rfl
@[simp] theorem advance_fcmdl (s : State) : (advance s).fcmdl = s.fcmdl := rfl
@[simp] theorem advance_reg (s : State) : (advance s).reg = s.reg := rfl
@[simp] theorem advance_len (s : State) : (advance s).len = s.len := rfl
@[simp] theorem advance_page (s : State) : (advance s).page = s.page := rfl
@[simp] theorem advance_attempt (s : State) : (advance s).attempt = s.attempt := rfl
@[simp] theorem advance_mainValid (s : State) : (advance s).mainValid = s.mainValid := rfl
@[simp] theorem advance_mainPage (s : State) : (advance s).mainPage = s.mainPage := rfl
@[simp] theorem advance_subValid (s : State) : (advance s).subValid = s.subValid := rfl
@[simp] theorem advance_subPage (s : State) : (advance s).subPage = s.subPage := rfl
@[simp] theorem advance_mem (s : State) : (advance s).mem = s.mem := rfl
@[simp] theorem advance_rlen (s : State) : (advance s).rlen = s.rlen := rfl
@[simp] theorem advance_statbyte (s : State) : (advance s).statbyte = s.statbyte := rfl
@[simp] theorem advance_ack (s : State) : (advance s).ack = s.ack := rfl
@[simp] theorem advance_wlen (s : State) : (advance s).wlen = s.wlen := rfl
@[simp] theorem advance_err (s : State) : (advance s).err = s.err := rfl
@[simp] theorem advance_cause (s : State) : (advance s).cause = s.cause := rfl
@[simp] theorem advance_errReg (s : State) : (advance s).errReg = s.errReg := rfl
@[simp] theorem advance_errPage (s : State) : (advance s).errPage = s.errPage := rfl
@[simp] theorem advance_errSpace (s : State) : (advance s).errSpace = s.errSpace := rfl
@[simp] theorem advance_errPhase (s : State) : (advance s).errPhase = s.errPhase := rfl
@[simp] theorem advance_done (s : State) : (advance s).done = s.done := rfl
@[simp] theorem advance_overrun (s : State) : (advance s).overrun = s.overrun := rfl
@[simp] theorem advance_rxhdr (s : State) : (advance s).rxhdr = s.rxhdr := rfl
@[simp] theorem advance_rxhdrV (s : State) : (advance s).rxhdrV = s.rxhdrV := rfl
@[simp] theorem advance_timerFired (s : State) : (advance s).timerFired = s.timerFired := rfl
@[simp] theorem advance_txf (s : State) : (advance s).txf = s.txf := rfl
@[simp] theorem advance_rxCount (s : State) : (advance s).rxCount = s.rxCount := rfl
@[simp] theorem advance_resetIn (s : State) : (advance s).resetIn = s.resetIn := rfl
@[simp] theorem advance_link (s : State) : (advance s).link = s.link := rfl
@[simp] theorem advance_sched (s : State) : (advance s).sched = s.sched := rfl
@[simp] theorem advance_rdata (s : State) : (advance s).rdata = s.rdata := rfl
@[simp] theorem advance_period (s : State) : (advance s).period = s.period := rfl
@[simp] theorem advance_draws (s : State) : (advance s).draws = s.draws := rfl

/-! ### putBytes -/

@[simp] theorem putBytes_cfg (a : Nat) (bs : List Byte) (s : State) : (putBytes a bs s).cfg = s.cfg := rfl
@[simp] theorem putBytes_fsm (a : Nat) (bs : List Byte) (s : State) : (putBytes a bs s).fsm = s.fsm := rfl
@[simp] theorem putBytes_opl (a : Nat) (bs : List Byte) (s : State) : (putBytes a bs s).opl = s.opl := rfl
@[simp] theorem putBytes_spacel (a : Nat) (bs : List Byte) (s : State) : (putBytes a bs s).spacel = s.spacel := rfl
@[simp] theorem putBytes_fcmdl (a : Nat) (bs : List Byte) (s : State) : (putBytes a bs s).fcmdl = s.fcmdl := rfl
@[simp] theorem putBytes_reg (a : Nat) (bs : List Byte) (s : State) : (putBytes a bs s).reg = s.reg := rfl
@[simp] theorem putBytes_len (a : Nat) (bs : List Byte) (s : State) : (putBytes a bs s).len = s.len := rfl
@[simp] theorem putBytes_page (a : Nat) (bs : List Byte) (s : State) : (putBytes a bs s).page = s.page := rfl
@[simp] theorem putBytes_attempt (a : Nat) (bs : List Byte) (s : State) : (putBytes a bs s).attempt = s.attempt := rfl
@[simp] theorem putBytes_mainValid (a : Nat) (bs : List Byte) (s : State) : (putBytes a bs s).mainValid = s.mainValid := rfl
@[simp] theorem putBytes_mainPage (a : Nat) (bs : List Byte) (s : State) : (putBytes a bs s).mainPage = s.mainPage := rfl
@[simp] theorem putBytes_subValid (a : Nat) (bs : List Byte) (s : State) : (putBytes a bs s).subValid = s.subValid := rfl
@[simp] theorem putBytes_subPage (a : Nat) (bs : List Byte) (s : State) : (putBytes a bs s).subPage = s.subPage := rfl
@[simp] theorem putBytes_mem (a : Nat) (bs : List Byte) (s : State) : (putBytes a bs s).mem = s.mem.writeAll a bs := rfl
@[simp] theorem putBytes_rlen (a : Nat) (bs : List Byte) (s : State) : (putBytes a bs s).rlen = s.rlen := rfl
@[simp] theorem putBytes_statbyte (a : Nat) (bs : List Byte) (s : State) : (putBytes a bs s).statbyte = s.statbyte := rfl
@[simp] theorem putBytes_ack (a : Nat) (bs : List Byte) (s : State) : (putBytes a bs s).ack = s.ack := rfl
@[simp] theorem putBytes_wlen (a : Nat) (bs : List Byte) (s : State) : (putBytes a bs s).wlen = s.wlen := rfl
@[simp] theorem putBytes_err (a : Nat) (bs : List Byte) (s : State) : (putBytes a bs s).err = s.err := rfl
@[simp] theorem putBytes_cause (a : Nat) (bs : List Byte) (s : State) : (putBytes a bs s).cause = s.cause := rfl
@[simp] theorem putBytes_errReg (a : Nat) (bs : List Byte) (s : State) : (putBytes a bs s).errReg = s.errReg := rfl
@[simp] theorem putBytes_errPage (a : Nat) (bs : List Byte) (s : State) : (putBytes a bs s).errPage = s.errPage := rfl
@[simp] theorem putBytes_errSpace (a : Nat) (bs : List Byte) (s : State) : (putBytes a bs s).errSpace = s.errSpace := rfl
@[simp] theorem putBytes_errPhase (a : Nat) (bs : List Byte) (s : State) : (putBytes a bs s).errPhase = s.errPhase := rfl
@[simp] theorem putBytes_done (a : Nat) (bs : List Byte) (s : State) : (putBytes a bs s).done = s.done := rfl
@[simp] theorem putBytes_overrun (a : Nat) (bs : List Byte) (s : State) : (putBytes a bs s).overrun = s.overrun := rfl
@[simp] theorem putBytes_rxhdr (a : Nat) (bs : List Byte) (s : State) : (putBytes a bs s).rxhdr = s.rxhdr := rfl
@[simp] theorem putBytes_rxhdrV (a : Nat) (bs : List Byte) (s : State) : (putBytes a bs s).rxhdrV = s.rxhdrV := rfl
@[simp] theorem putBytes_timerFired (a : Nat) (bs : List Byte) (s : State) : (putBytes a bs s).timerFired = s.timerFired := rfl
@[simp] theorem putBytes_txf (a : Nat) (bs : List Byte) (s : State) : (putBytes a bs s).txf = s.txf := rfl
@[simp] theorem putBytes_rxCount (a : Nat) (bs : List Byte) (s : State) : (putBytes a bs s).rxCount = s.rxCount := rfl
@[simp] theorem putBytes_resetIn (a : Nat) (bs : List Byte) (s : State) : (putBytes a bs s).resetIn = s.resetIn := rfl
@[simp] theorem putBytes_link (a : Nat) (bs : List Byte) (s : State) : (putBytes a bs s).link = s.link := rfl
@[simp] theorem putBytes_sched (a : Nat) (bs : List Byte) (s : State) : (putBytes a bs s).sched = s.sched := rfl
@[simp] theorem putBytes_rdata (a : Nat) (bs : List Byte) (s : State) : (putBytes a bs s).rdata = s.rdata := rfl
@[simp] theorem putBytes_period (a : Nat) (bs : List Byte) (s : State) : (putBytes a bs s).period = s.period := rfl
@[simp] theorem putBytes_draws (a : Nat) (bs : List Byte) (s : State) : (putBytes a bs s).draws = s.draws := rfl

/-! ### clearTracking -/

@[simp] theorem clearTracking_cfg (s : State) : (clearTracking s).cfg = s.cfg := rfl
@[simp] theorem clearTracking_fsm (s : State) : (clearTracking s).fsm = s.fsm := rfl
@[simp] theorem clearTracking_opl (s : State) : (clearTracking s).opl = s.opl := rfl
@[simp] theorem clearTracking_spacel (s : State) : (clearTracking s).spacel = s.spacel := rfl
@[simp] theorem clearTracking_fcmdl (s : State) : (clearTracking s).fcmdl = s.fcmdl := rfl
@[simp] theorem clearTracking_reg (s : State) : (clearTracking s).reg = s.reg := rfl
@[simp] theorem clearTracking_len (s : State) : (clearTracking s).len = s.len := rfl
@[simp] theorem clearTracking_page (s : State) : (clearTracking s).page = s.page := rfl
@[simp] theorem clearTracking_attempt (s : State) : (clearTracking s).attempt = s.attempt := rfl
@[simp] theorem clearTracking_mainValid (s : State) : (clearTracking s).mainValid = false := rfl
@[simp] theorem clearTracking_mainPage (s : State) : (clearTracking s).mainPage = s.mainPage := rfl
@[simp] theorem clearTracking_subValid (s : State) : (clearTracking s).subValid = false := rfl
@[simp] theorem clearTracking_subPage (s : State) : (clearTracking s).subPage = s.subPage := rfl
@[simp] theorem clearTracking_mem (s : State) : (clearTracking s).mem = s.mem := rfl
@[simp] theorem clearTracking_rlen (s : State) : (clearTracking s).rlen = s.rlen := rfl
@[simp] theorem clearTracking_statbyte (s : State) : (clearTracking s).statbyte = s.statbyte := rfl
@[simp] theorem clearTracking_ack (s : State) : (clearTracking s).ack = s.ack := rfl
@[simp] theorem clearTracking_wlen (s : State) : (clearTracking s).wlen = s.wlen := rfl
@[simp] theorem clearTracking_err (s : State) : (clearTracking s).err = s.err := rfl
@[simp] theorem clearTracking_cause (s : State) : (clearTracking s).cause = s.cause := rfl
@[simp] theorem clearTracking_errReg (s : State) : (clearTracking s).errReg = s.errReg := rfl
@[simp] theorem clearTracking_errPage (s : State) : (clearTracking s).errPage = s.errPage := rfl
@[simp] theorem clearTracking_errSpace (s : State) : (clearTracking s).errSpace = s.errSpace := rfl
@[simp] theorem clearTracking_errPhase (s : State) : (clearTracking s).errPhase = s.errPhase := rfl
@[simp] theorem clearTracking_done (s : State) : (clearTracking s).done = s.done := rfl
@[simp] theorem clearTracking_overrun (s : State) : (clearTracking s).overrun = s.overrun := rfl
@[simp] theorem clearTracking_rxhdr (s : State) : (clearTracking s).rxhdr = s.rxhdr := rfl
@[simp] theorem clearTracking_rxhdrV (s : State) : (clearTracking s).rxhdrV = s.rxhdrV := rfl
@[simp] theorem clearTracking_timerFired (s : State) : (clearTracking s).timerFired = s.timerFired := rfl
@[simp] theorem clearTracking_txf (s : State) : (clearTracking s).txf = s.txf := rfl
@[simp] theorem clearTracking_rxCount (s : State) : (clearTracking s).rxCount = s.rxCount := rfl
@[simp] theorem clearTracking_resetIn (s : State) : (clearTracking s).resetIn = s.resetIn := rfl
@[simp] theorem clearTracking_link (s : State) : (clearTracking s).link = s.link := rfl
@[simp] theorem clearTracking_sched (s : State) : (clearTracking s).sched = s.sched := rfl
@[simp] theorem clearTracking_rdata (s : State) : (clearTracking s).rdata = s.rdata := rfl
@[simp] theorem clearTracking_period (s : State) : (clearTracking s).period = s.period := rfl
@[simp] theorem clearTracking_draws (s : State) : (clearTracking s).draws = s.draws := rfl

/-! ### clearSpace -/

@[simp] theorem clearSpace_cfg (sp : BitVec 1) (s : State) : (clearSpace sp s).cfg = s.cfg := rfl
@[simp] theorem clearSpace_fsm (sp : BitVec 1) (s : State) : (clearSpace sp s).fsm = s.fsm := rfl
@[simp] theorem clearSpace_opl (sp : BitVec 1) (s : State) : (clearSpace sp s).opl = s.opl := rfl
@[simp] theorem clearSpace_spacel (sp : BitVec 1) (s : State) : (clearSpace sp s).spacel = s.spacel := rfl
@[simp] theorem clearSpace_fcmdl (sp : BitVec 1) (s : State) : (clearSpace sp s).fcmdl = s.fcmdl := rfl
@[simp] theorem clearSpace_reg (sp : BitVec 1) (s : State) : (clearSpace sp s).reg = s.reg := rfl
@[simp] theorem clearSpace_len (sp : BitVec 1) (s : State) : (clearSpace sp s).len = s.len := rfl
@[simp] theorem clearSpace_page (sp : BitVec 1) (s : State) : (clearSpace sp s).page = s.page := rfl
@[simp] theorem clearSpace_attempt (sp : BitVec 1) (s : State) : (clearSpace sp s).attempt = s.attempt := rfl
@[simp] theorem clearSpace_mainValid (sp : BitVec 1) (s : State) : (clearSpace sp s).mainValid = (s.mainValid && sp == 1) := rfl
@[simp] theorem clearSpace_mainPage (sp : BitVec 1) (s : State) : (clearSpace sp s).mainPage = s.mainPage := rfl
@[simp] theorem clearSpace_subValid (sp : BitVec 1) (s : State) : (clearSpace sp s).subValid = (s.subValid && sp != 1) := rfl
@[simp] theorem clearSpace_subPage (sp : BitVec 1) (s : State) : (clearSpace sp s).subPage = s.subPage := rfl
@[simp] theorem clearSpace_mem (sp : BitVec 1) (s : State) : (clearSpace sp s).mem = s.mem := rfl
@[simp] theorem clearSpace_rlen (sp : BitVec 1) (s : State) : (clearSpace sp s).rlen = s.rlen := rfl
@[simp] theorem clearSpace_statbyte (sp : BitVec 1) (s : State) : (clearSpace sp s).statbyte = s.statbyte := rfl
@[simp] theorem clearSpace_ack (sp : BitVec 1) (s : State) : (clearSpace sp s).ack = s.ack := rfl
@[simp] theorem clearSpace_wlen (sp : BitVec 1) (s : State) : (clearSpace sp s).wlen = s.wlen := rfl
@[simp] theorem clearSpace_err (sp : BitVec 1) (s : State) : (clearSpace sp s).err = s.err := rfl
@[simp] theorem clearSpace_cause (sp : BitVec 1) (s : State) : (clearSpace sp s).cause = s.cause := rfl
@[simp] theorem clearSpace_errReg (sp : BitVec 1) (s : State) : (clearSpace sp s).errReg = s.errReg := rfl
@[simp] theorem clearSpace_errPage (sp : BitVec 1) (s : State) : (clearSpace sp s).errPage = s.errPage := rfl
@[simp] theorem clearSpace_errSpace (sp : BitVec 1) (s : State) : (clearSpace sp s).errSpace = s.errSpace := rfl
@[simp] theorem clearSpace_errPhase (sp : BitVec 1) (s : State) : (clearSpace sp s).errPhase = s.errPhase := rfl
@[simp] theorem clearSpace_done (sp : BitVec 1) (s : State) : (clearSpace sp s).done = s.done := rfl
@[simp] theorem clearSpace_overrun (sp : BitVec 1) (s : State) : (clearSpace sp s).overrun = s.overrun := rfl
@[simp] theorem clearSpace_rxhdr (sp : BitVec 1) (s : State) : (clearSpace sp s).rxhdr = s.rxhdr := rfl
@[simp] theorem clearSpace_rxhdrV (sp : BitVec 1) (s : State) : (clearSpace sp s).rxhdrV = s.rxhdrV := rfl
@[simp] theorem clearSpace_timerFired (sp : BitVec 1) (s : State) : (clearSpace sp s).timerFired = s.timerFired := rfl
@[simp] theorem clearSpace_txf (sp : BitVec 1) (s : State) : (clearSpace sp s).txf = s.txf := rfl
@[simp] theorem clearSpace_rxCount (sp : BitVec 1) (s : State) : (clearSpace sp s).rxCount = s.rxCount := rfl
@[simp] theorem clearSpace_resetIn (sp : BitVec 1) (s : State) : (clearSpace sp s).resetIn = s.resetIn := rfl
@[simp] theorem clearSpace_link (sp : BitVec 1) (s : State) : (clearSpace sp s).link = s.link := rfl
@[simp] theorem clearSpace_sched (sp : BitVec 1) (s : State) : (clearSpace sp s).sched = s.sched := rfl
@[simp] theorem clearSpace_rdata (sp : BitVec 1) (s : State) : (clearSpace sp s).rdata = s.rdata := rfl
@[simp] theorem clearSpace_period (sp : BitVec 1) (s : State) : (clearSpace sp s).period = s.period := rfl
@[simp] theorem clearSpace_draws (sp : BitVec 1) (s : State) : (clearSpace sp s).draws = s.draws := rfl

/-! ### setSpace -/

@[simp] theorem setSpace_cfg (sp : BitVec 1) (p : Byte) (s : State) : (setSpace sp p s).cfg = s.cfg := rfl
@[simp] theorem setSpace_fsm (sp : BitVec 1) (p : Byte) (s : State) : (setSpace sp p s).fsm = s.fsm := rfl
@[simp] theorem setSpace_opl (sp : BitVec 1) (p : Byte) (s : State) : (setSpace sp p s).opl = s.opl := rfl
@[simp] theorem setSpace_spacel (sp : BitVec 1) (p : Byte) (s : State) : (setSpace sp p s).spacel = s.spacel := rfl
@[simp] theorem setSpace_fcmdl (sp : BitVec 1) (p : Byte) (s : State) : (setSpace sp p s).fcmdl = s.fcmdl := rfl
@[simp] theorem setSpace_reg (sp : BitVec 1) (p : Byte) (s : State) : (setSpace sp p s).reg = s.reg := rfl
@[simp] theorem setSpace_len (sp : BitVec 1) (p : Byte) (s : State) : (setSpace sp p s).len = s.len := rfl
@[simp] theorem setSpace_page (sp : BitVec 1) (p : Byte) (s : State) : (setSpace sp p s).page = s.page := rfl
@[simp] theorem setSpace_attempt (sp : BitVec 1) (p : Byte) (s : State) : (setSpace sp p s).attempt = s.attempt := rfl
@[simp] theorem setSpace_mainValid (sp : BitVec 1) (p : Byte) (s : State) : (setSpace sp p s).mainValid = (s.mainValid || sp != 1) := rfl
@[simp] theorem setSpace_mainPage (sp : BitVec 1) (p : Byte) (s : State) : (setSpace sp p s).mainPage = (if sp = 1 then s.mainPage else p) := rfl
@[simp] theorem setSpace_subValid (sp : BitVec 1) (p : Byte) (s : State) : (setSpace sp p s).subValid = (s.subValid || sp == 1) := rfl
@[simp] theorem setSpace_subPage (sp : BitVec 1) (p : Byte) (s : State) : (setSpace sp p s).subPage = (if sp = 1 then p else s.subPage) := rfl
@[simp] theorem setSpace_mem (sp : BitVec 1) (p : Byte) (s : State) : (setSpace sp p s).mem = s.mem := rfl
@[simp] theorem setSpace_rlen (sp : BitVec 1) (p : Byte) (s : State) : (setSpace sp p s).rlen = s.rlen := rfl
@[simp] theorem setSpace_statbyte (sp : BitVec 1) (p : Byte) (s : State) : (setSpace sp p s).statbyte = s.statbyte := rfl
@[simp] theorem setSpace_ack (sp : BitVec 1) (p : Byte) (s : State) : (setSpace sp p s).ack = s.ack := rfl
@[simp] theorem setSpace_wlen (sp : BitVec 1) (p : Byte) (s : State) : (setSpace sp p s).wlen = s.wlen := rfl
@[simp] theorem setSpace_err (sp : BitVec 1) (p : Byte) (s : State) : (setSpace sp p s).err = s.err := rfl
@[simp] theorem setSpace_cause (sp : BitVec 1) (p : Byte) (s : State) : (setSpace sp p s).cause = s.cause := rfl
@[simp] theorem setSpace_errReg (sp : BitVec 1) (p : Byte) (s : State) : (setSpace sp p s).errReg = s.errReg := rfl
@[simp] theorem setSpace_errPage (sp : BitVec 1) (p : Byte) (s : State) : (setSpace sp p s).errPage = s.errPage := rfl
@[simp] theorem setSpace_errSpace (sp : BitVec 1) (p : Byte) (s : State) : (setSpace sp p s).errSpace = s.errSpace := rfl
@[simp] theorem setSpace_errPhase (sp : BitVec 1) (p : Byte) (s : State) : (setSpace sp p s).errPhase = s.errPhase := rfl
@[simp] theorem setSpace_done (sp : BitVec 1) (p : Byte) (s : State) : (setSpace sp p s).done = s.done := rfl
@[simp] theorem setSpace_overrun (sp : BitVec 1) (p : Byte) (s : State) : (setSpace sp p s).overrun = s.overrun := rfl
@[simp] theorem setSpace_rxhdr (sp : BitVec 1) (p : Byte) (s : State) : (setSpace sp p s).rxhdr = s.rxhdr := rfl
@[simp] theorem setSpace_rxhdrV (sp : BitVec 1) (p : Byte) (s : State) : (setSpace sp p s).rxhdrV = s.rxhdrV := rfl
@[simp] theorem setSpace_timerFired (sp : BitVec 1) (p : Byte) (s : State) : (setSpace sp p s).timerFired = s.timerFired := rfl
@[simp] theorem setSpace_txf (sp : BitVec 1) (p : Byte) (s : State) : (setSpace sp p s).txf = s.txf := rfl
@[simp] theorem setSpace_rxCount (sp : BitVec 1) (p : Byte) (s : State) : (setSpace sp p s).rxCount = s.rxCount := rfl
@[simp] theorem setSpace_resetIn (sp : BitVec 1) (p : Byte) (s : State) : (setSpace sp p s).resetIn = s.resetIn := rfl
@[simp] theorem setSpace_link (sp : BitVec 1) (p : Byte) (s : State) : (setSpace sp p s).link = s.link := rfl
@[simp] theorem setSpace_sched (sp : BitVec 1) (p : Byte) (s : State) : (setSpace sp p s).sched = s.sched := rfl
@[simp] theorem setSpace_rdata (sp : BitVec 1) (p : Byte) (s : State) : (setSpace sp p s).rdata = s.rdata := rfl
@[simp] theorem setSpace_period (sp : BitVec 1) (p : Byte) (s : State) : (setSpace sp p s).period = s.period := rfl
@[simp] theorem setSpace_draws (sp : BitVec 1) (p : Byte) (s : State) : (setSpace sp p s).draws = s.draws := rfl

/-! ### clearForWrite -/

@[simp] theorem clearForWrite_cfg (r : Byte) (s : State) : (clearForWrite r s).cfg = s.cfg := rfl
@[simp] theorem clearForWrite_fsm (r : Byte) (s : State) : (clearForWrite r s).fsm = s.fsm := rfl
@[simp] theorem clearForWrite_opl (r : Byte) (s : State) : (clearForWrite r s).opl = s.opl := rfl
@[simp] theorem clearForWrite_spacel (r : Byte) (s : State) : (clearForWrite r s).spacel = s.spacel := rfl
@[simp] theorem clearForWrite_fcmdl (r : Byte) (s : State) : (clearForWrite r s).fcmdl = s.fcmdl := rfl
@[simp] theorem clearForWrite_reg (r : Byte) (s : State) : (clearForWrite r s).reg = s.reg := rfl
@[simp] theorem clearForWrite_len (r : Byte) (s : State) : (clearForWrite r s).len = s.len := rfl
@[simp] theorem clearForWrite_page (r : Byte) (s : State) : (clearForWrite r s).page = s.page := rfl
@[simp] theorem clearForWrite_attempt (r : Byte) (s : State) : (clearForWrite r s).attempt = s.attempt := rfl
@[simp] theorem clearForWrite_mainValid (r : Byte) (s : State) : (clearForWrite r s).mainValid = (s.mainValid && r != s.cfg.val.mainPageReg) := rfl
@[simp] theorem clearForWrite_mainPage (r : Byte) (s : State) : (clearForWrite r s).mainPage = s.mainPage := rfl
@[simp] theorem clearForWrite_subValid (r : Byte) (s : State) : (clearForWrite r s).subValid = (s.subValid && r != s.cfg.val.subPageReg) := rfl
@[simp] theorem clearForWrite_subPage (r : Byte) (s : State) : (clearForWrite r s).subPage = s.subPage := rfl
@[simp] theorem clearForWrite_mem (r : Byte) (s : State) : (clearForWrite r s).mem = s.mem := rfl
@[simp] theorem clearForWrite_rlen (r : Byte) (s : State) : (clearForWrite r s).rlen = s.rlen := rfl
@[simp] theorem clearForWrite_statbyte (r : Byte) (s : State) : (clearForWrite r s).statbyte = s.statbyte := rfl
@[simp] theorem clearForWrite_ack (r : Byte) (s : State) : (clearForWrite r s).ack = s.ack := rfl
@[simp] theorem clearForWrite_wlen (r : Byte) (s : State) : (clearForWrite r s).wlen = s.wlen := rfl
@[simp] theorem clearForWrite_err (r : Byte) (s : State) : (clearForWrite r s).err = s.err := rfl
@[simp] theorem clearForWrite_cause (r : Byte) (s : State) : (clearForWrite r s).cause = s.cause := rfl
@[simp] theorem clearForWrite_errReg (r : Byte) (s : State) : (clearForWrite r s).errReg = s.errReg := rfl
@[simp] theorem clearForWrite_errPage (r : Byte) (s : State) : (clearForWrite r s).errPage = s.errPage := rfl
@[simp] theorem clearForWrite_errSpace (r : Byte) (s : State) : (clearForWrite r s).errSpace = s.errSpace := rfl
@[simp] theorem clearForWrite_errPhase (r : Byte) (s : State) : (clearForWrite r s).errPhase = s.errPhase := rfl
@[simp] theorem clearForWrite_done (r : Byte) (s : State) : (clearForWrite r s).done = s.done := rfl
@[simp] theorem clearForWrite_overrun (r : Byte) (s : State) : (clearForWrite r s).overrun = s.overrun := rfl
@[simp] theorem clearForWrite_rxhdr (r : Byte) (s : State) : (clearForWrite r s).rxhdr = s.rxhdr := rfl
@[simp] theorem clearForWrite_rxhdrV (r : Byte) (s : State) : (clearForWrite r s).rxhdrV = s.rxhdrV := rfl
@[simp] theorem clearForWrite_timerFired (r : Byte) (s : State) : (clearForWrite r s).timerFired = s.timerFired := rfl
@[simp] theorem clearForWrite_txf (r : Byte) (s : State) : (clearForWrite r s).txf = s.txf := rfl
@[simp] theorem clearForWrite_rxCount (r : Byte) (s : State) : (clearForWrite r s).rxCount = s.rxCount := rfl
@[simp] theorem clearForWrite_resetIn (r : Byte) (s : State) : (clearForWrite r s).resetIn = s.resetIn := rfl
@[simp] theorem clearForWrite_link (r : Byte) (s : State) : (clearForWrite r s).link = s.link := rfl
@[simp] theorem clearForWrite_sched (r : Byte) (s : State) : (clearForWrite r s).sched = s.sched := rfl
@[simp] theorem clearForWrite_rdata (r : Byte) (s : State) : (clearForWrite r s).rdata = s.rdata := rfl
@[simp] theorem clearForWrite_period (r : Byte) (s : State) : (clearForWrite r s).period = s.period := rfl
@[simp] theorem clearForWrite_draws (r : Byte) (s : State) : (clearForWrite r s).draws = s.draws := rfl

/-! ### complete -/

@[simp] theorem complete_cfg (s : State) : (complete s).cfg = s.cfg := rfl
@[simp] theorem complete_fsm (s : State) : (complete s).fsm = .idle := rfl
@[simp] theorem complete_opl (s : State) : (complete s).opl = s.opl := rfl
@[simp] theorem complete_spacel (s : State) : (complete s).spacel = s.spacel := rfl
@[simp] theorem complete_fcmdl (s : State) : (complete s).fcmdl = s.fcmdl := rfl
@[simp] theorem complete_reg (s : State) : (complete s).reg = s.reg := rfl
@[simp] theorem complete_len (s : State) : (complete s).len = s.len := rfl
@[simp] theorem complete_page (s : State) : (complete s).page = s.page := rfl
@[simp] theorem complete_attempt (s : State) : (complete s).attempt = s.attempt := rfl
@[simp] theorem complete_mainValid (s : State) : (complete s).mainValid = s.mainValid := rfl
@[simp] theorem complete_mainPage (s : State) : (complete s).mainPage = s.mainPage := rfl
@[simp] theorem complete_subValid (s : State) : (complete s).subValid = s.subValid := rfl
@[simp] theorem complete_subPage (s : State) : (complete s).subPage = s.subPage := rfl
@[simp] theorem complete_mem (s : State) : (complete s).mem = s.mem := rfl
@[simp] theorem complete_rlen (s : State) : (complete s).rlen = s.rlen := rfl
@[simp] theorem complete_statbyte (s : State) : (complete s).statbyte = s.statbyte := rfl
@[simp] theorem complete_ack (s : State) : (complete s).ack = s.ack := rfl
@[simp] theorem complete_wlen (s : State) : (complete s).wlen = s.wlen := rfl
@[simp] theorem complete_err (s : State) : (complete s).err = s.err := rfl
@[simp] theorem complete_cause (s : State) : (complete s).cause = s.cause := rfl
@[simp] theorem complete_errReg (s : State) : (complete s).errReg = s.errReg := rfl
@[simp] theorem complete_errPage (s : State) : (complete s).errPage = s.errPage := rfl
@[simp] theorem complete_errSpace (s : State) : (complete s).errSpace = s.errSpace := rfl
@[simp] theorem complete_errPhase (s : State) : (complete s).errPhase = s.errPhase := rfl
@[simp] theorem complete_done (s : State) : (complete s).done = true := rfl
@[simp] theorem complete_overrun (s : State) : (complete s).overrun = s.overrun := rfl
@[simp] theorem complete_rxhdr (s : State) : (complete s).rxhdr = s.rxhdr := rfl
@[simp] theorem complete_rxhdrV (s : State) : (complete s).rxhdrV = s.rxhdrV := rfl
@[simp] theorem complete_timerFired (s : State) : (complete s).timerFired = s.timerFired := rfl
@[simp] theorem complete_txf (s : State) : (complete s).txf = s.txf := rfl
@[simp] theorem complete_rxCount (s : State) : (complete s).rxCount = s.rxCount := rfl
@[simp] theorem complete_resetIn (s : State) : (complete s).resetIn = s.resetIn := rfl
@[simp] theorem complete_link (s : State) : (complete s).link = s.link := rfl
@[simp] theorem complete_sched (s : State) : (complete s).sched = s.sched := rfl
@[simp] theorem complete_rdata (s : State) : (complete s).rdata = s.rdata := rfl
@[simp] theorem complete_period (s : State) : (complete s).period = s.period := rfl
@[simp] theorem complete_draws (s : State) : (complete s).draws = s.draws := rfl

/-! ### raise -/

@[simp] theorem raise_cfg (e : Cause) (s : State) : (raise e s).cfg = s.cfg := rfl
@[simp] theorem raise_fsm (e : Cause) (s : State) : (raise e s).fsm = (if classOf e = .io then .faulted else .idle) := rfl
@[simp] theorem raise_opl (e : Cause) (s : State) : (raise e s).opl = s.opl := rfl
@[simp] theorem raise_spacel (e : Cause) (s : State) : (raise e s).spacel = s.spacel := rfl
@[simp] theorem raise_fcmdl (e : Cause) (s : State) : (raise e s).fcmdl = s.fcmdl := rfl
@[simp] theorem raise_reg (e : Cause) (s : State) : (raise e s).reg = s.reg := rfl
@[simp] theorem raise_len (e : Cause) (s : State) : (raise e s).len = s.len := rfl
@[simp] theorem raise_page (e : Cause) (s : State) : (raise e s).page = s.page := rfl
@[simp] theorem raise_attempt (e : Cause) (s : State) : (raise e s).attempt = s.attempt := rfl
@[simp] theorem raise_mainValid (e : Cause) (s : State) : (raise e s).mainValid = (s.mainValid && !invalidates e s) := rfl
@[simp] theorem raise_mainPage (e : Cause) (s : State) : (raise e s).mainPage = s.mainPage := rfl
@[simp] theorem raise_subValid (e : Cause) (s : State) : (raise e s).subValid = (s.subValid && !invalidates e s) := rfl
@[simp] theorem raise_subPage (e : Cause) (s : State) : (raise e s).subPage = s.subPage := rfl
@[simp] theorem raise_mem (e : Cause) (s : State) : (raise e s).mem = s.mem := rfl
@[simp] theorem raise_rlen (e : Cause) (s : State) : (raise e s).rlen = 0 := rfl
@[simp] theorem raise_statbyte (e : Cause) (s : State) : (raise e s).statbyte = s.statbyte := rfl
@[simp] theorem raise_ack (e : Cause) (s : State) : (raise e s).ack = s.ack := rfl
@[simp] theorem raise_wlen (e : Cause) (s : State) : (raise e s).wlen = s.wlen := rfl
@[simp] theorem raise_err (e : Cause) (s : State) : (raise e s).err = errCode (classOf e) := rfl
@[simp] theorem raise_cause (e : Cause) (s : State) : (raise e s).cause = causeCode e := rfl
@[simp] theorem raise_errReg (e : Cause) (s : State) : (raise e s).errReg = (if s.opl = 5 ∨ s.opl = 6 then s.reg else if s.opl = 7 then pageReg s.cfg.val s.spacel else 0) := rfl
@[simp] theorem raise_errPage (e : Cause) (s : State) : (raise e s).errPage = (if s.opl = 7 then s.page else 0) := rfl
@[simp] theorem raise_errSpace (e : Cause) (s : State) : (raise e s).errSpace = (if s.opl = 7 then s.spacel else 0) := rfl
@[simp] theorem raise_errPhase (e : Cause) (s : State) : (raise e s).errPhase = fsmCode s.fsm := rfl
@[simp] theorem raise_done (e : Cause) (s : State) : (raise e s).done = true := rfl
@[simp] theorem raise_overrun (e : Cause) (s : State) : (raise e s).overrun = s.overrun := rfl
@[simp] theorem raise_rxhdr (e : Cause) (s : State) : (raise e s).rxhdr = s.rxhdr := rfl
@[simp] theorem raise_rxhdrV (e : Cause) (s : State) : (raise e s).rxhdrV = s.rxhdrV := rfl
@[simp] theorem raise_timerFired (e : Cause) (s : State) : (raise e s).timerFired = s.timerFired := rfl
@[simp] theorem raise_txf (e : Cause) (s : State) : (raise e s).txf = s.txf := rfl
@[simp] theorem raise_rxCount (e : Cause) (s : State) : (raise e s).rxCount = s.rxCount := rfl
@[simp] theorem raise_resetIn (e : Cause) (s : State) : (raise e s).resetIn = s.resetIn := rfl
@[simp] theorem raise_link (e : Cause) (s : State) : (raise e s).link = s.link := rfl
@[simp] theorem raise_sched (e : Cause) (s : State) : (raise e s).sched = s.sched := rfl
@[simp] theorem raise_rdata (e : Cause) (s : State) : (raise e s).rdata = s.rdata := rfl
@[simp] theorem raise_period (e : Cause) (s : State) : (raise e s).period = s.period := rfl
@[simp] theorem raise_draws (e : Cause) (s : State) : (raise e s).draws = s.draws := rfl

/-! ### accept -/

@[simp] theorem accept_cfg (op : BitVec 4) (sp : BitVec 1) (fc : Nibble) (s : State) : (accept op sp fc s).cfg = s.cfg := rfl
@[simp] theorem accept_fsm (op : BitVec 4) (sp : BitVec 1) (fc : Nibble) (s : State) : (accept op sp fc s).fsm = .checkArgs := rfl
@[simp] theorem accept_opl (op : BitVec 4) (sp : BitVec 1) (fc : Nibble) (s : State) : (accept op sp fc s).opl = op := rfl
@[simp] theorem accept_spacel (op : BitVec 4) (sp : BitVec 1) (fc : Nibble) (s : State) : (accept op sp fc s).spacel = sp := rfl
@[simp] theorem accept_fcmdl (op : BitVec 4) (sp : BitVec 1) (fc : Nibble) (s : State) : (accept op sp fc s).fcmdl = fc := rfl
@[simp] theorem accept_reg (op : BitVec 4) (sp : BitVec 1) (fc : Nibble) (s : State) : (accept op sp fc s).reg = s.reg := rfl
@[simp] theorem accept_len (op : BitVec 4) (sp : BitVec 1) (fc : Nibble) (s : State) : (accept op sp fc s).len = s.len := rfl
@[simp] theorem accept_page (op : BitVec 4) (sp : BitVec 1) (fc : Nibble) (s : State) : (accept op sp fc s).page = s.page := rfl
@[simp] theorem accept_attempt (op : BitVec 4) (sp : BitVec 1) (fc : Nibble) (s : State) : (accept op sp fc s).attempt = 0 := rfl
@[simp] theorem accept_mainValid (op : BitVec 4) (sp : BitVec 1) (fc : Nibble) (s : State) : (accept op sp fc s).mainValid = s.mainValid := rfl
@[simp] theorem accept_mainPage (op : BitVec 4) (sp : BitVec 1) (fc : Nibble) (s : State) : (accept op sp fc s).mainPage = s.mainPage := rfl
@[simp] theorem accept_subValid (op : BitVec 4) (sp : BitVec 1) (fc : Nibble) (s : State) : (accept op sp fc s).subValid = s.subValid := rfl
@[simp] theorem accept_subPage (op : BitVec 4) (sp : BitVec 1) (fc : Nibble) (s : State) : (accept op sp fc s).subPage = s.subPage := rfl
@[simp] theorem accept_mem (op : BitVec 4) (sp : BitVec 1) (fc : Nibble) (s : State) : (accept op sp fc s).mem = s.mem := rfl
@[simp] theorem accept_rlen (op : BitVec 4) (sp : BitVec 1) (fc : Nibble) (s : State) : (accept op sp fc s).rlen = 0 := rfl
@[simp] theorem accept_statbyte (op : BitVec 4) (sp : BitVec 1) (fc : Nibble) (s : State) : (accept op sp fc s).statbyte = 0 := rfl
@[simp] theorem accept_ack (op : BitVec 4) (sp : BitVec 1) (fc : Nibble) (s : State) : (accept op sp fc s).ack = 0 := rfl
@[simp] theorem accept_wlen (op : BitVec 4) (sp : BitVec 1) (fc : Nibble) (s : State) : (accept op sp fc s).wlen = s.wlen := rfl
@[simp] theorem accept_err (op : BitVec 4) (sp : BitVec 1) (fc : Nibble) (s : State) : (accept op sp fc s).err = 0 := rfl
@[simp] theorem accept_cause (op : BitVec 4) (sp : BitVec 1) (fc : Nibble) (s : State) : (accept op sp fc s).cause = 0 := rfl
@[simp] theorem accept_errReg (op : BitVec 4) (sp : BitVec 1) (fc : Nibble) (s : State) : (accept op sp fc s).errReg = 0 := rfl
@[simp] theorem accept_errPage (op : BitVec 4) (sp : BitVec 1) (fc : Nibble) (s : State) : (accept op sp fc s).errPage = 0 := rfl
@[simp] theorem accept_errSpace (op : BitVec 4) (sp : BitVec 1) (fc : Nibble) (s : State) : (accept op sp fc s).errSpace = 0 := rfl
@[simp] theorem accept_errPhase (op : BitVec 4) (sp : BitVec 1) (fc : Nibble) (s : State) : (accept op sp fc s).errPhase = 0 := rfl
@[simp] theorem accept_done (op : BitVec 4) (sp : BitVec 1) (fc : Nibble) (s : State) : (accept op sp fc s).done = false := rfl
@[simp] theorem accept_overrun (op : BitVec 4) (sp : BitVec 1) (fc : Nibble) (s : State) : (accept op sp fc s).overrun = s.overrun := rfl
@[simp] theorem accept_rxhdr (op : BitVec 4) (sp : BitVec 1) (fc : Nibble) (s : State) : (accept op sp fc s).rxhdr = 0 := rfl
@[simp] theorem accept_rxhdrV (op : BitVec 4) (sp : BitVec 1) (fc : Nibble) (s : State) : (accept op sp fc s).rxhdrV = false := rfl
@[simp] theorem accept_timerFired (op : BitVec 4) (sp : BitVec 1) (fc : Nibble) (s : State) : (accept op sp fc s).timerFired = s.timerFired := rfl
@[simp] theorem accept_txf (op : BitVec 4) (sp : BitVec 1) (fc : Nibble) (s : State) : (accept op sp fc s).txf = s.txf := rfl
@[simp] theorem accept_rxCount (op : BitVec 4) (sp : BitVec 1) (fc : Nibble) (s : State) : (accept op sp fc s).rxCount = s.rxCount := rfl
@[simp] theorem accept_resetIn (op : BitVec 4) (sp : BitVec 1) (fc : Nibble) (s : State) : (accept op sp fc s).resetIn = s.resetIn := rfl
@[simp] theorem accept_link (op : BitVec 4) (sp : BitVec 1) (fc : Nibble) (s : State) : (accept op sp fc s).link = s.link := rfl
@[simp] theorem accept_sched (op : BitVec 4) (sp : BitVec 1) (fc : Nibble) (s : State) : (accept op sp fc s).sched = s.sched := rfl
@[simp] theorem accept_rdata (op : BitVec 4) (sp : BitVec 1) (fc : Nibble) (s : State) : (accept op sp fc s).rdata = s.rdata := rfl
@[simp] theorem accept_period (op : BitVec 4) (sp : BitVec 1) (fc : Nibble) (s : State) : (accept op sp fc s).period = s.period := rfl
@[simp] theorem accept_draws (op : BitVec 4) (sp : BitVec 1) (fc : Nibble) (s : State) : (accept op sp fc s).draws = s.draws := rfl

/-! ### drop -/

@[simp] theorem drop_cfg (s : State) : (drop s).cfg = s.cfg := rfl
@[simp] theorem drop_fsm (s : State) : (drop s).fsm = s.fsm := rfl
@[simp] theorem drop_opl (s : State) : (drop s).opl = s.opl := rfl
@[simp] theorem drop_spacel (s : State) : (drop s).spacel = s.spacel := rfl
@[simp] theorem drop_fcmdl (s : State) : (drop s).fcmdl = s.fcmdl := rfl
@[simp] theorem drop_reg (s : State) : (drop s).reg = s.reg := rfl
@[simp] theorem drop_len (s : State) : (drop s).len = s.len := rfl
@[simp] theorem drop_page (s : State) : (drop s).page = s.page := rfl
@[simp] theorem drop_attempt (s : State) : (drop s).attempt = s.attempt := rfl
@[simp] theorem drop_mainValid (s : State) : (drop s).mainValid = s.mainValid := rfl
@[simp] theorem drop_mainPage (s : State) : (drop s).mainPage = s.mainPage := rfl
@[simp] theorem drop_subValid (s : State) : (drop s).subValid = s.subValid := rfl
@[simp] theorem drop_subPage (s : State) : (drop s).subPage = s.subPage := rfl
@[simp] theorem drop_mem (s : State) : (drop s).mem = s.mem := rfl
@[simp] theorem drop_rlen (s : State) : (drop s).rlen = s.rlen := rfl
@[simp] theorem drop_statbyte (s : State) : (drop s).statbyte = s.statbyte := rfl
@[simp] theorem drop_ack (s : State) : (drop s).ack = s.ack := rfl
@[simp] theorem drop_wlen (s : State) : (drop s).wlen = s.wlen := rfl
@[simp] theorem drop_err (s : State) : (drop s).err = s.err := rfl
@[simp] theorem drop_cause (s : State) : (drop s).cause = s.cause := rfl
@[simp] theorem drop_errReg (s : State) : (drop s).errReg = s.errReg := rfl
@[simp] theorem drop_errPage (s : State) : (drop s).errPage = s.errPage := rfl
@[simp] theorem drop_errSpace (s : State) : (drop s).errSpace = s.errSpace := rfl
@[simp] theorem drop_errPhase (s : State) : (drop s).errPhase = s.errPhase := rfl
@[simp] theorem drop_done (s : State) : (drop s).done = s.done := rfl
@[simp] theorem drop_overrun (s : State) : (drop s).overrun = true := rfl
@[simp] theorem drop_rxhdr (s : State) : (drop s).rxhdr = s.rxhdr := rfl
@[simp] theorem drop_rxhdrV (s : State) : (drop s).rxhdrV = s.rxhdrV := rfl
@[simp] theorem drop_timerFired (s : State) : (drop s).timerFired = s.timerFired := rfl
@[simp] theorem drop_txf (s : State) : (drop s).txf = s.txf := rfl
@[simp] theorem drop_rxCount (s : State) : (drop s).rxCount = s.rxCount := rfl
@[simp] theorem drop_resetIn (s : State) : (drop s).resetIn = s.resetIn := rfl
@[simp] theorem drop_link (s : State) : (drop s).link = s.link := rfl
@[simp] theorem drop_sched (s : State) : (drop s).sched = s.sched := rfl
@[simp] theorem drop_rdata (s : State) : (drop s).rdata = s.rdata := rfl
@[simp] theorem drop_period (s : State) : (drop s).period = s.period := rfl
@[simp] theorem drop_draws (s : State) : (drop s).draws = s.draws := rfl

/-! ### putOut -/

@[simp] theorem putOut_cfg (ws : List Byte) (s : State) : (putOut ws s).cfg = s.cfg := rfl
@[simp] theorem putOut_fsm (ws : List Byte) (s : State) : (putOut ws s).fsm = s.fsm := rfl
@[simp] theorem putOut_opl (ws : List Byte) (s : State) : (putOut ws s).opl = s.opl := rfl
@[simp] theorem putOut_spacel (ws : List Byte) (s : State) : (putOut ws s).spacel = s.spacel := rfl
@[simp] theorem putOut_fcmdl (ws : List Byte) (s : State) : (putOut ws s).fcmdl = s.fcmdl := rfl
@[simp] theorem putOut_reg (ws : List Byte) (s : State) : (putOut ws s).reg = s.reg := rfl
@[simp] theorem putOut_len (ws : List Byte) (s : State) : (putOut ws s).len = s.len := rfl
@[simp] theorem putOut_page (ws : List Byte) (s : State) : (putOut ws s).page = s.page := rfl
@[simp] theorem putOut_attempt (ws : List Byte) (s : State) : (putOut ws s).attempt = s.attempt := rfl
@[simp] theorem putOut_mainValid (ws : List Byte) (s : State) : (putOut ws s).mainValid = s.mainValid := rfl
@[simp] theorem putOut_mainPage (ws : List Byte) (s : State) : (putOut ws s).mainPage = s.mainPage := rfl
@[simp] theorem putOut_subValid (ws : List Byte) (s : State) : (putOut ws s).subValid = s.subValid := rfl
@[simp] theorem putOut_subPage (ws : List Byte) (s : State) : (putOut ws s).subPage = s.subPage := rfl
@[simp] theorem putOut_mem (ws : List Byte) (s : State) : (putOut ws s).mem = s.mem := rfl
@[simp] theorem putOut_rlen (ws : List Byte) (s : State) : (putOut ws s).rlen = s.rlen := rfl
@[simp] theorem putOut_statbyte (ws : List Byte) (s : State) : (putOut ws s).statbyte = s.statbyte := rfl
@[simp] theorem putOut_ack (ws : List Byte) (s : State) : (putOut ws s).ack = s.ack := rfl
@[simp] theorem putOut_wlen (ws : List Byte) (s : State) : (putOut ws s).wlen = s.wlen := rfl
@[simp] theorem putOut_err (ws : List Byte) (s : State) : (putOut ws s).err = s.err := rfl
@[simp] theorem putOut_cause (ws : List Byte) (s : State) : (putOut ws s).cause = s.cause := rfl
@[simp] theorem putOut_errReg (ws : List Byte) (s : State) : (putOut ws s).errReg = s.errReg := rfl
@[simp] theorem putOut_errPage (ws : List Byte) (s : State) : (putOut ws s).errPage = s.errPage := rfl
@[simp] theorem putOut_errSpace (ws : List Byte) (s : State) : (putOut ws s).errSpace = s.errSpace := rfl
@[simp] theorem putOut_errPhase (ws : List Byte) (s : State) : (putOut ws s).errPhase = s.errPhase := rfl
@[simp] theorem putOut_done (ws : List Byte) (s : State) : (putOut ws s).done = s.done := rfl
@[simp] theorem putOut_overrun (ws : List Byte) (s : State) : (putOut ws s).overrun = s.overrun := rfl
@[simp] theorem putOut_rxhdr (ws : List Byte) (s : State) : (putOut ws s).rxhdr = s.rxhdr := rfl
@[simp] theorem putOut_rxhdrV (ws : List Byte) (s : State) : (putOut ws s).rxhdrV = s.rxhdrV := rfl
@[simp] theorem putOut_timerFired (ws : List Byte) (s : State) : (putOut ws s).timerFired = s.timerFired := rfl
@[simp] theorem putOut_txf (ws : List Byte) (s : State) : (putOut ws s).txf = s.txf := rfl
@[simp] theorem putOut_rxCount (ws : List Byte) (s : State) : (putOut ws s).rxCount = s.rxCount := rfl
@[simp] theorem putOut_resetIn (ws : List Byte) (s : State) : (putOut ws s).resetIn = s.resetIn := rfl
@[simp] theorem putOut_link (ws : List Byte) (s : State) : (putOut ws s).link = { s.link with out := s.link.out ++ ws } := rfl
@[simp] theorem putOut_sched (ws : List Byte) (s : State) : (putOut ws s).sched = s.sched := rfl
@[simp] theorem putOut_rdata (ws : List Byte) (s : State) : (putOut ws s).rdata = s.rdata := rfl
@[simp] theorem putOut_period (ws : List Byte) (s : State) : (putOut ws s).period = s.period := rfl
@[simp] theorem putOut_draws (ws : List Byte) (s : State) : (putOut ws s).draws = s.draws := rfl

/-! ### afterCollect -/

@[simp] theorem afterCollect_cfg (r : List Byte × List RxDraw × Bool) (s : State) : (afterCollect r s).cfg = s.cfg := rfl
@[simp] theorem afterCollect_fsm (r : List Byte × List RxDraw × Bool) (s : State) : (afterCollect r s).fsm = s.fsm := rfl
@[simp] theorem afterCollect_opl (r : List Byte × List RxDraw × Bool) (s : State) : (afterCollect r s).opl = s.opl := rfl
@[simp] theorem afterCollect_spacel (r : List Byte × List RxDraw × Bool) (s : State) : (afterCollect r s).spacel = s.spacel := rfl
@[simp] theorem afterCollect_fcmdl (r : List Byte × List RxDraw × Bool) (s : State) : (afterCollect r s).fcmdl = s.fcmdl := rfl
@[simp] theorem afterCollect_reg (r : List Byte × List RxDraw × Bool) (s : State) : (afterCollect r s).reg = s.reg := rfl
@[simp] theorem afterCollect_len (r : List Byte × List RxDraw × Bool) (s : State) : (afterCollect r s).len = s.len := rfl
@[simp] theorem afterCollect_page (r : List Byte × List RxDraw × Bool) (s : State) : (afterCollect r s).page = s.page := rfl
@[simp] theorem afterCollect_attempt (r : List Byte × List RxDraw × Bool) (s : State) : (afterCollect r s).attempt = s.attempt := rfl
@[simp] theorem afterCollect_mainValid (r : List Byte × List RxDraw × Bool) (s : State) : (afterCollect r s).mainValid = s.mainValid := rfl
@[simp] theorem afterCollect_mainPage (r : List Byte × List RxDraw × Bool) (s : State) : (afterCollect r s).mainPage = s.mainPage := rfl
@[simp] theorem afterCollect_subValid (r : List Byte × List RxDraw × Bool) (s : State) : (afterCollect r s).subValid = s.subValid := rfl
@[simp] theorem afterCollect_subPage (r : List Byte × List RxDraw × Bool) (s : State) : (afterCollect r s).subPage = s.subPage := rfl
@[simp] theorem afterCollect_mem (r : List Byte × List RxDraw × Bool) (s : State) : (afterCollect r s).mem = s.mem.writeAll wireBase r.1 := rfl
@[simp] theorem afterCollect_rlen (r : List Byte × List RxDraw × Bool) (s : State) : (afterCollect r s).rlen = s.rlen := rfl
@[simp] theorem afterCollect_statbyte (r : List Byte × List RxDraw × Bool) (s : State) : (afterCollect r s).statbyte = s.statbyte := rfl
@[simp] theorem afterCollect_ack (r : List Byte × List RxDraw × Bool) (s : State) : (afterCollect r s).ack = s.ack := rfl
@[simp] theorem afterCollect_wlen (r : List Byte × List RxDraw × Bool) (s : State) : (afterCollect r s).wlen = BitVec.ofNat 11 r.1.length := rfl
@[simp] theorem afterCollect_err (r : List Byte × List RxDraw × Bool) (s : State) : (afterCollect r s).err = s.err := rfl
@[simp] theorem afterCollect_cause (r : List Byte × List RxDraw × Bool) (s : State) : (afterCollect r s).cause = s.cause := rfl
@[simp] theorem afterCollect_errReg (r : List Byte × List RxDraw × Bool) (s : State) : (afterCollect r s).errReg = s.errReg := rfl
@[simp] theorem afterCollect_errPage (r : List Byte × List RxDraw × Bool) (s : State) : (afterCollect r s).errPage = s.errPage := rfl
@[simp] theorem afterCollect_errSpace (r : List Byte × List RxDraw × Bool) (s : State) : (afterCollect r s).errSpace = s.errSpace := rfl
@[simp] theorem afterCollect_errPhase (r : List Byte × List RxDraw × Bool) (s : State) : (afterCollect r s).errPhase = s.errPhase := rfl
@[simp] theorem afterCollect_done (r : List Byte × List RxDraw × Bool) (s : State) : (afterCollect r s).done = s.done := rfl
@[simp] theorem afterCollect_overrun (r : List Byte × List RxDraw × Bool) (s : State) : (afterCollect r s).overrun = s.overrun := rfl
@[simp] theorem afterCollect_rxhdr (r : List Byte × List RxDraw × Bool) (s : State) : (afterCollect r s).rxhdr = s.rxhdr := rfl
@[simp] theorem afterCollect_rxhdrV (r : List Byte × List RxDraw × Bool) (s : State) : (afterCollect r s).rxhdrV = s.rxhdrV := rfl
@[simp] theorem afterCollect_timerFired (r : List Byte × List RxDraw × Bool) (s : State) : (afterCollect r s).timerFired = !r.2.2 := rfl
@[simp] theorem afterCollect_txf (r : List Byte × List RxDraw × Bool) (s : State) : (afterCollect r s).txf = s.txf := rfl
@[simp] theorem afterCollect_rxCount (r : List Byte × List RxDraw × Bool) (s : State) : (afterCollect r s).rxCount = r.1.length := rfl
@[simp] theorem afterCollect_resetIn (r : List Byte × List RxDraw × Bool) (s : State) : (afterCollect r s).resetIn = s.resetIn := rfl
@[simp] theorem afterCollect_link (r : List Byte × List RxDraw × Bool) (s : State) : (afterCollect r s).link = { s.link with rx := r.2.1, arrived := s.link.arrived - (s.link.rx.length - r.2.1.length) } := rfl
@[simp] theorem afterCollect_sched (r : List Byte × List RxDraw × Bool) (s : State) : (afterCollect r s).sched = s.sched := rfl
@[simp] theorem afterCollect_rdata (r : List Byte × List RxDraw × Bool) (s : State) : (afterCollect r s).rdata = s.rdata := rfl
@[simp] theorem afterCollect_period (r : List Byte × List RxDraw × Bool) (s : State) : (afterCollect r s).period = s.period := rfl
@[simp] theorem afterCollect_draws (r : List Byte × List RxDraw × Bool) (s : State) : (afterCollect r s).draws = s.draws := rfl

/-! ### recordHeader -/

@[simp] theorem recordHeader_cfg (w : List Byte) (s : State) : (recordHeader w s).cfg = s.cfg := rfl
@[simp] theorem recordHeader_fsm (w : List Byte) (s : State) : (recordHeader w s).fsm = s.fsm := rfl
@[simp] theorem recordHeader_opl (w : List Byte) (s : State) : (recordHeader w s).opl = s.opl := rfl
@[simp] theorem recordHeader_spacel (w : List Byte) (s : State) : (recordHeader w s).spacel = s.spacel := rfl
@[simp] theorem recordHeader_fcmdl (w : List Byte) (s : State) : (recordHeader w s).fcmdl = s.fcmdl := rfl
@[simp] theorem recordHeader_reg (w : List Byte) (s : State) : (recordHeader w s).reg = s.reg := rfl
@[simp] theorem recordHeader_len (w : List Byte) (s : State) : (recordHeader w s).len = s.len := rfl
@[simp] theorem recordHeader_page (w : List Byte) (s : State) : (recordHeader w s).page = s.page := rfl
@[simp] theorem recordHeader_attempt (w : List Byte) (s : State) : (recordHeader w s).attempt = s.attempt := rfl
@[simp] theorem recordHeader_mainValid (w : List Byte) (s : State) : (recordHeader w s).mainValid = s.mainValid := rfl
@[simp] theorem recordHeader_mainPage (w : List Byte) (s : State) : (recordHeader w s).mainPage = s.mainPage := rfl
@[simp] theorem recordHeader_subValid (w : List Byte) (s : State) : (recordHeader w s).subValid = s.subValid := rfl
@[simp] theorem recordHeader_subPage (w : List Byte) (s : State) : (recordHeader w s).subPage = s.subPage := rfl
@[simp] theorem recordHeader_mem (w : List Byte) (s : State) : (recordHeader w s).mem = s.mem := rfl
@[simp] theorem recordHeader_rlen (w : List Byte) (s : State) : (recordHeader w s).rlen = s.rlen := rfl
@[simp] theorem recordHeader_statbyte (w : List Byte) (s : State) : (recordHeader w s).statbyte = s.statbyte := rfl
@[simp] theorem recordHeader_ack (w : List Byte) (s : State) : (recordHeader w s).ack = s.ack := rfl
@[simp] theorem recordHeader_wlen (w : List Byte) (s : State) : (recordHeader w s).wlen = s.wlen := rfl
@[simp] theorem recordHeader_err (w : List Byte) (s : State) : (recordHeader w s).err = s.err := rfl
@[simp] theorem recordHeader_cause (w : List Byte) (s : State) : (recordHeader w s).cause = s.cause := rfl
@[simp] theorem recordHeader_errReg (w : List Byte) (s : State) : (recordHeader w s).errReg = s.errReg := rfl
@[simp] theorem recordHeader_errPage (w : List Byte) (s : State) : (recordHeader w s).errPage = s.errPage := rfl
@[simp] theorem recordHeader_errSpace (w : List Byte) (s : State) : (recordHeader w s).errSpace = s.errSpace := rfl
@[simp] theorem recordHeader_errPhase (w : List Byte) (s : State) : (recordHeader w s).errPhase = s.errPhase := rfl
@[simp] theorem recordHeader_done (w : List Byte) (s : State) : (recordHeader w s).done = s.done := rfl
@[simp] theorem recordHeader_overrun (w : List Byte) (s : State) : (recordHeader w s).overrun = s.overrun := rfl
@[simp] theorem recordHeader_timerFired (w : List Byte) (s : State) : (recordHeader w s).timerFired = s.timerFired := rfl
@[simp] theorem recordHeader_txf (w : List Byte) (s : State) : (recordHeader w s).txf = s.txf := rfl
@[simp] theorem recordHeader_rxCount (w : List Byte) (s : State) : (recordHeader w s).rxCount = s.rxCount := rfl
@[simp] theorem recordHeader_resetIn (w : List Byte) (s : State) : (recordHeader w s).resetIn = s.resetIn := rfl
@[simp] theorem recordHeader_link (w : List Byte) (s : State) : (recordHeader w s).link = s.link := rfl
@[simp] theorem recordHeader_sched (w : List Byte) (s : State) : (recordHeader w s).sched = s.sched := rfl
@[simp] theorem recordHeader_rdata (w : List Byte) (s : State) : (recordHeader w s).rdata = s.rdata := rfl
@[simp] theorem recordHeader_period (w : List Byte) (s : State) : (recordHeader w s).period = s.period := rfl
@[simp] theorem recordHeader_draws (w : List Byte) (s : State) : (recordHeader w s).draws = s.draws := rfl

/-! ### storeReply -/

@[simp] theorem storeReply_cfg (len : Byte) (out : List Byte) (s : State) : (storeReply len out s).cfg = s.cfg := rfl
@[simp] theorem storeReply_fsm (len : Byte) (out : List Byte) (s : State) : (storeReply len out s).fsm = s.fsm := rfl
@[simp] theorem storeReply_opl (len : Byte) (out : List Byte) (s : State) : (storeReply len out s).opl = s.opl := rfl
@[simp] theorem storeReply_spacel (len : Byte) (out : List Byte) (s : State) : (storeReply len out s).spacel = s.spacel := rfl
@[simp] theorem storeReply_fcmdl (len : Byte) (out : List Byte) (s : State) : (storeReply len out s).fcmdl = s.fcmdl := rfl
@[simp] theorem storeReply_reg (len : Byte) (out : List Byte) (s : State) : (storeReply len out s).reg = s.reg := rfl
@[simp] theorem storeReply_len (len : Byte) (out : List Byte) (s : State) : (storeReply len out s).len = s.len := rfl
@[simp] theorem storeReply_page (len : Byte) (out : List Byte) (s : State) : (storeReply len out s).page = s.page := rfl
@[simp] theorem storeReply_attempt (len : Byte) (out : List Byte) (s : State) : (storeReply len out s).attempt = s.attempt := rfl
@[simp] theorem storeReply_mainValid (len : Byte) (out : List Byte) (s : State) : (storeReply len out s).mainValid = s.mainValid := rfl
@[simp] theorem storeReply_mainPage (len : Byte) (out : List Byte) (s : State) : (storeReply len out s).mainPage = s.mainPage := rfl
@[simp] theorem storeReply_subValid (len : Byte) (out : List Byte) (s : State) : (storeReply len out s).subValid = s.subValid := rfl
@[simp] theorem storeReply_subPage (len : Byte) (out : List Byte) (s : State) : (storeReply len out s).subPage = s.subPage := rfl
@[simp] theorem storeReply_mem (len : Byte) (out : List Byte) (s : State) : (storeReply len out s).mem = s.mem.writeAll rxBase out := rfl
@[simp] theorem storeReply_rlen (len : Byte) (out : List Byte) (s : State) : (storeReply len out s).rlen = BitVec.ofNat 11 len.toNat := rfl
@[simp] theorem storeReply_statbyte (len : Byte) (out : List Byte) (s : State) : (storeReply len out s).statbyte = out.getD len.toNat 0 := rfl
@[simp] theorem storeReply_ack (len : Byte) (out : List Byte) (s : State) : (storeReply len out s).ack = s.ack := rfl
@[simp] theorem storeReply_wlen (len : Byte) (out : List Byte) (s : State) : (storeReply len out s).wlen = s.wlen := rfl
@[simp] theorem storeReply_err (len : Byte) (out : List Byte) (s : State) : (storeReply len out s).err = s.err := rfl
@[simp] theorem storeReply_cause (len : Byte) (out : List Byte) (s : State) : (storeReply len out s).cause = s.cause := rfl
@[simp] theorem storeReply_errReg (len : Byte) (out : List Byte) (s : State) : (storeReply len out s).errReg = s.errReg := rfl
@[simp] theorem storeReply_errPage (len : Byte) (out : List Byte) (s : State) : (storeReply len out s).errPage = s.errPage := rfl
@[simp] theorem storeReply_errSpace (len : Byte) (out : List Byte) (s : State) : (storeReply len out s).errSpace = s.errSpace := rfl
@[simp] theorem storeReply_errPhase (len : Byte) (out : List Byte) (s : State) : (storeReply len out s).errPhase = s.errPhase := rfl
@[simp] theorem storeReply_done (len : Byte) (out : List Byte) (s : State) : (storeReply len out s).done = s.done := rfl
@[simp] theorem storeReply_overrun (len : Byte) (out : List Byte) (s : State) : (storeReply len out s).overrun = s.overrun := rfl
@[simp] theorem storeReply_rxhdr (len : Byte) (out : List Byte) (s : State) : (storeReply len out s).rxhdr = s.rxhdr := rfl
@[simp] theorem storeReply_rxhdrV (len : Byte) (out : List Byte) (s : State) : (storeReply len out s).rxhdrV = s.rxhdrV := rfl
@[simp] theorem storeReply_timerFired (len : Byte) (out : List Byte) (s : State) : (storeReply len out s).timerFired = s.timerFired := rfl
@[simp] theorem storeReply_txf (len : Byte) (out : List Byte) (s : State) : (storeReply len out s).txf = s.txf := rfl
@[simp] theorem storeReply_rxCount (len : Byte) (out : List Byte) (s : State) : (storeReply len out s).rxCount = s.rxCount := rfl
@[simp] theorem storeReply_resetIn (len : Byte) (out : List Byte) (s : State) : (storeReply len out s).resetIn = s.resetIn := rfl
@[simp] theorem storeReply_link (len : Byte) (out : List Byte) (s : State) : (storeReply len out s).link = s.link := rfl
@[simp] theorem storeReply_sched (len : Byte) (out : List Byte) (s : State) : (storeReply len out s).sched = s.sched := rfl
@[simp] theorem storeReply_rdata (len : Byte) (out : List Byte) (s : State) : (storeReply len out s).rdata = s.rdata := rfl
@[simp] theorem storeReply_period (len : Byte) (out : List Byte) (s : State) : (storeReply len out s).period = s.period := rfl
@[simp] theorem storeReply_draws (len : Byte) (out : List Byte) (s : State) : (storeReply len out s).draws = s.draws := rfl

/-! ### resetAction -/

@[simp] theorem resetAction_cfg (s : State) : (resetAction s).cfg = s.cfg := rfl
@[simp] theorem resetAction_fsm (s : State) : (resetAction s).fsm = State.reset.fsm := rfl
@[simp] theorem resetAction_opl (s : State) : (resetAction s).opl = State.reset.opl := rfl
@[simp] theorem resetAction_spacel (s : State) : (resetAction s).spacel = State.reset.spacel := rfl
@[simp] theorem resetAction_fcmdl (s : State) : (resetAction s).fcmdl = State.reset.fcmdl := rfl
@[simp] theorem resetAction_reg (s : State) : (resetAction s).reg = State.reset.reg := rfl
@[simp] theorem resetAction_len (s : State) : (resetAction s).len = State.reset.len := rfl
@[simp] theorem resetAction_page (s : State) : (resetAction s).page = State.reset.page := rfl
@[simp] theorem resetAction_attempt (s : State) : (resetAction s).attempt = State.reset.attempt := rfl
@[simp] theorem resetAction_mainValid (s : State) : (resetAction s).mainValid = State.reset.mainValid := rfl
@[simp] theorem resetAction_mainPage (s : State) : (resetAction s).mainPage = State.reset.mainPage := rfl
@[simp] theorem resetAction_subValid (s : State) : (resetAction s).subValid = State.reset.subValid := rfl
@[simp] theorem resetAction_subPage (s : State) : (resetAction s).subPage = State.reset.subPage := rfl
@[simp] theorem resetAction_mem (s : State) : (resetAction s).mem = State.reset.mem := rfl
@[simp] theorem resetAction_rlen (s : State) : (resetAction s).rlen = State.reset.rlen := rfl
@[simp] theorem resetAction_statbyte (s : State) : (resetAction s).statbyte = State.reset.statbyte := rfl
@[simp] theorem resetAction_ack (s : State) : (resetAction s).ack = State.reset.ack := rfl
@[simp] theorem resetAction_wlen (s : State) : (resetAction s).wlen = State.reset.wlen := rfl
@[simp] theorem resetAction_err (s : State) : (resetAction s).err = State.reset.err := rfl
@[simp] theorem resetAction_cause (s : State) : (resetAction s).cause = State.reset.cause := rfl
@[simp] theorem resetAction_errReg (s : State) : (resetAction s).errReg = State.reset.errReg := rfl
@[simp] theorem resetAction_errPage (s : State) : (resetAction s).errPage = State.reset.errPage := rfl
@[simp] theorem resetAction_errSpace (s : State) : (resetAction s).errSpace = State.reset.errSpace := rfl
@[simp] theorem resetAction_errPhase (s : State) : (resetAction s).errPhase = State.reset.errPhase := rfl
@[simp] theorem resetAction_done (s : State) : (resetAction s).done = State.reset.done := rfl
@[simp] theorem resetAction_overrun (s : State) : (resetAction s).overrun = State.reset.overrun := rfl
@[simp] theorem resetAction_rxhdr (s : State) : (resetAction s).rxhdr = State.reset.rxhdr := rfl
@[simp] theorem resetAction_rxhdrV (s : State) : (resetAction s).rxhdrV = State.reset.rxhdrV := rfl
@[simp] theorem resetAction_timerFired (s : State) : (resetAction s).timerFired = State.reset.timerFired := rfl
@[simp] theorem resetAction_txf (s : State) : (resetAction s).txf = State.reset.txf := rfl
@[simp] theorem resetAction_rxCount (s : State) : (resetAction s).rxCount = State.reset.rxCount := rfl
@[simp] theorem resetAction_resetIn (s : State) : (resetAction s).resetIn = s.resetIn := rfl
@[simp] theorem resetAction_link (s : State) : (resetAction s).link = { s.link with rx := s.link.rx.drop s.link.arrived, arrived := 0 } := rfl
@[simp] theorem resetAction_sched (s : State) : (resetAction s).sched = s.sched := rfl
@[simp] theorem resetAction_rdata (s : State) : (resetAction s).rdata = s.rdata := rfl
@[simp] theorem resetAction_period (s : State) : (resetAction s).period = s.period + 1 := rfl
@[simp] theorem resetAction_draws (s : State) : (resetAction s).draws = s.draws := rfl

@[simp] theorem recordHeader_nil (s : State) : recordHeader [] s = s := rfl
@[simp] theorem recordHeader_cons_rxhdrV (w0 : Byte) (w : List Byte) (s : State) :
    (recordHeader (w0 :: w) s).rxhdrV = (headerExtract s.cfg.val w0).1 := rfl
@[simp] theorem recordHeader_cons_rxhdr (w0 : Byte) (w : List Byte) (s : State) :
    (recordHeader (w0 :: w) s).rxhdr = (headerExtract s.cfg.val w0).2 := rfl

end Sys2Proof.Machine
end

