-- ==== Sys2Proof/Laws/Memory.lean ====
section
/-! SUPPORT. The laws of the buffer memory: reading after a write, what a write leaves alone, and the canonical form
that every memory operation keeps. -/
namespace Sys2Proof.Machine

open Sys2Proof

theorem Memory.find?_insert (m : Memory) (a b : Nat) (v : Byte) :
    (Memory.insert m a v).find? b = if a = b then some v else m.find? b := by
  induction m with
  | nil => simp [Memory.insert, Memory.find?]
  | cons c m ih =>
    simp only [Memory.insert]
    split
    · simp [Memory.find?]
    · split
      · rename_i h1 h2
        subst h2
        by_cases hb : c.1 = b <;> simp [Memory.find?, hb]
      · rename_i h1 h2
        by_cases hb : c.1 = b
        · have : ¬ a = b := by omega
          simp [Memory.find?, hb, this]
        · simp [Memory.find?, hb, ih]

theorem Memory.find?_write (m : Memory) (a b : Nat) (v : Byte) :
    (m.write a v).find? b = if a = b ∧ isStorage a = true then some v else m.find? b := by
  unfold Memory.write
  split
  · rename_i h; simp [Memory.find?_insert, h]
  · rename_i h; simp [h]

/-- A write of a byte sequence leaves every byte outside it alone. -/
theorem Memory.find?_writeAll_of_outside (bs : List Byte) :
    ∀ (m : Memory) (a b : Nat), (b < a ∨ a + bs.length ≤ b) → (m.writeAll a bs).find? b = m.find? b := by
  induction bs with
  | nil => intro m a b _; rfl
  | cons v bs ih =>
    intro m a b h
    simp only [List.length_cons] at h
    rw [Memory.writeAll, ih _ _ _ (by omega), Memory.find?_write]
    have : ¬ a = b := by omega
    simp [this]

/-- A byte of the sequence is read back at its place, where there is storage. -/
theorem Memory.find?_writeAll_at (bs : List Byte) :
    ∀ (m : Memory) (a i : Nat) (h : i < bs.length), isStorage (a + i) = true →
      (m.writeAll a bs).find? (a + i) = some bs[i] := by
  induction bs with
  | nil => intro m a i h; simp at h
  | cons v bs ih =>
    intro m a i h hs
    cases i with
    | zero =>
      rw [Memory.writeAll, Memory.find?_writeAll_of_outside _ _ _ _ (by omega), Memory.find?_write]
      rw [if_pos ⟨by omega, by simpa using hs⟩]
      rfl
    | succ i =>
      have h' : i < bs.length := by simpa using h
      have := ih (m.write a v) (a + 1) i h' (by rw [show a + 1 + i = a + (i + 1) by omega]; exact hs)
      rw [show a + 1 + i = a + (i + 1) by omega] at this
      simpa [Memory.writeAll] using this

theorem Memory.risingFrom_mono {m : Memory} {lo lo' : Nat} (h : m.risingFrom lo' = true) (hl : lo ≤ lo') :
    m.risingFrom lo = true := by
  cases m with
  | nil => rfl
  | cons c m =>
    simp only [Memory.risingFrom, Bool.and_eq_true, decide_eq_true_eq] at h ⊢
    exact ⟨by omega, h.2⟩

theorem Memory.risingFrom_insert (m : Memory) :
    ∀ (lo a : Nat) (v : Byte), m.risingFrom lo = true → lo ≤ a → (Memory.insert m a v).risingFrom lo = true := by
  induction m with
  | nil => intro lo a v _ h; simpa [Memory.insert, Memory.risingFrom] using h
  | cons c m ih =>
    intro lo a v h ha
    simp only [Memory.risingFrom, Bool.and_eq_true, decide_eq_true_eq] at h
    simp only [Memory.insert]
    split
    · simp only [Memory.risingFrom, Bool.and_eq_true, decide_eq_true_eq]
      exact ⟨ha, by omega, h.2⟩
    · split
      · rename_i h1 h2
        simp only [Memory.risingFrom, Bool.and_eq_true, decide_eq_true_eq]
        exact ⟨ha, by rw [h2]; exact h.2⟩
      · simp only [Memory.risingFrom, Bool.and_eq_true, decide_eq_true_eq]
        exact ⟨h.1, ih _ _ _ h.2 (by omega)⟩

theorem Memory.mem_insert {m : Memory} {a : Nat} {v : Byte} {c : Host.Cell}
    (h : c ∈ Memory.insert m a v) : c = (a, v) ∨ c ∈ m := by
  induction m with
  | nil => simpa [Memory.insert] using h
  | cons d m ih =>
    simp only [Memory.insert] at h
    split at h
    · simpa using h
    · split at h
      · rcases List.mem_cons.mp h with h | h
        · exact .inl h
        · exact .inr (List.mem_cons_of_mem _ h)
      · rcases List.mem_cons.mp h with h | h
        · exact .inr (by simp [h])
        · rcases ih h with h | h
          · exact .inl h
          · exact .inr (List.mem_cons_of_mem _ h)

theorem Memory.write_wf {m : Memory} (h : m.wf = true) (a : Nat) (v : Byte) : (m.write a v).wf = true := by
  unfold Memory.write
  split
  · rename_i hs
    simp only [Memory.wf, Bool.and_eq_true, List.all_eq_true] at h ⊢
    refine ⟨Memory.risingFrom_insert _ _ _ _ h.1 (Nat.zero_le _), fun c hc => ?_⟩
    rcases Memory.mem_insert hc with rfl | hc
    · exact hs
    · exact h.2 c hc
  · exact h

theorem Memory.writeAll_wf (bs : List Byte) :
    ∀ {m : Memory}, m.wf = true → ∀ a, (m.writeAll a bs).wf = true := by
  induction bs with
  | nil => intro m h a; exact h
  | cons v bs ih => intro m h a; exact ih (Memory.write_wf h a v) (a + 1)

/-- The memory after reset is in canonical form. -/
theorem reset_mem_wf : State.reset.mem.wf = true := rfl

/-- Every write of bytes keeps the canonical form. -/
theorem putBytes_mem_wf {s : State} (h : s.mem.wf = true) (a : Nat) (bs : List Byte) :
    (putBytes a bs s).mem.wf = true := Memory.writeAll_wf bs h a

/-- The byte read depends on the memory and the reset period alone. -/
theorem byteAt_congr {s t : State} (hm : s.mem = t.mem) (hp : s.period = t.period) (a : Nat) :
    byteAt s a = byteAt t a := by simp [byteAt, hm, hp]

/-- A state whose memory is that of another after a write of `bs` at `a` reads every byte outside as before. -/
theorem byteAt_of_writeAll_outside {s t : State} {a : Nat} {bs : List Byte}
    (hm : t.mem = s.mem.writeAll a bs) (hp : t.period = s.period) {b : Nat}
    (h : b < a ∨ a + bs.length ≤ b) : byteAt t b = byteAt s b := by
  simp [byteAt, hm, hp, Memory.find?_writeAll_of_outside bs s.mem a b h]

/-- And reads the written bytes at their places. -/
theorem byteAt_of_writeAll_at {s t : State} {a : Nat} {bs : List Byte}
    (hm : t.mem = s.mem.writeAll a bs) {i : Nat} (hi : i < bs.length) (hs : isStorage (a + i) = true) :
    byteAt t (a + i) = bs[i] := by
  simp [byteAt, hm, Memory.find?_writeAll_at bs s.mem a i hi hs]

/-- Where nothing is stored, a byte reads 0 in every state of canonical memory. -/
theorem byteAt_of_not_storage {s : State} (h : s.mem.wf = true) {a : Nat} (ha : isStorage a = false) :
    byteAt s a = 0 := by
  have key : ∀ m : Memory, (m.all fun c => isStorage c.1) = true → m.find? a = none := by
    intro m
    induction m with
    | nil => intro _; rfl
    | cons c m ih =>
      intro hm
      simp only [List.all_cons, Bool.and_eq_true] at hm
      have : c.1 ≠ a := fun hc => by rw [hc, ha] at hm; exact absurd hm.1 (by simp)
      simp [Memory.find?, this, ih hm.2]
  simp only [Memory.wf, Bool.and_eq_true] at h
  simp [byteAt, key s.mem h.2, ha]

@[simp] theorem bytesAt_length (s : State) (a n : Nat) : (bytesAt s a n).length = n := by
  simp [bytesAt]

/-- Reading a range back right after it was written gives the bytes written. -/
theorem bytesAt_of_writeAll {s t : State} {a : Nat} {bs : List Byte} (hm : t.mem = s.mem.writeAll a bs)
    (hs : ∀ i, i < bs.length → isStorage (a + i) = true) : bytesAt t a bs.length = bs := by
  apply List.ext_getElem
  · simp
  · intro i h1 h2
    simp only [bytesAt, List.getElem_map, List.getElem_range]
    exact byteAt_of_writeAll_at hm h2 (hs i h2)

end Sys2Proof.Machine
end

