-- ==== Sys2Proof/Laws/Ops.lean ====
section
/-! SUPPORT. What each shared operation can do, said once: drawing an answer, transmitting, collecting inbound bytes,
receiving, checking arguments, taking a command; and the checks of the parameter record as statements. -/
namespace Sys2Proof.Machine

open Sys2Proof

/-! ### The parameter record -/

/-- Every nibble is in the list of nibbles. -/
theorem mem_nibbles (n : Nibble) : n ∈ nibbles := by
  simp only [nibbles, List.mem_map, List.mem_range]
  exact ⟨n.toNat, n.isLt, by simp⟩

/-- The checks of `Config.wf` (00_scope.md R8, 41_cipher.md R131, R156), as statements. -/
theorem Params.checks (p : Params) :
    1 ≤ p.val.nMain.toNat ∧ 1 ≤ p.val.nSub.toNat ∧ p.val.recvDefaultLen.toNat ≤ rxCap
      ∧ p.val.mainPageReg ≠ p.val.subPageReg ∧ p.val.injective = true ∧ p.val.notTerminator = true
      ∧ p.val.headerNotTerminator = true ∧ p.val.hdrDecDefined = true
      ∧ p.val.setupAckLen ≤ rxCap ∧ 1 ≤ p.val.wrAckLen ∧ p.val.wrAckLen ≤ rxCap := by
  have h := p.property.1
  simp only [Config.wf, Bool.and_eq_true, decide_eq_true_eq, bne_iff_ne] at h
  tauto

/-- R131 `injective`, as a statement. -/
theorem Params.symbol_inj (p : Params) {a b : Nibble} (h : p.val.symbol a = p.val.symbol b) : a = b := by
  have hi := (Params.checks p).2.2.2.2.1
  simp only [Config.injective, List.all_eq_true] at hi
  have := hi a (mem_nibbles a) b (mem_nibbles b)
  simpa [h] using this

/-- R131 `not_terminator`, as a statement. -/
theorem Params.symbol_ne_terminator (p : Params) (n : Nibble) : p.val.symbol n ≠ p.val.terminator := by
  have hi := (Params.checks p).2.2.2.2.2.1
  simp only [Config.notTerminator, List.all_eq_true] at hi
  simpa using hi n (mem_nibbles n)

/-- A budget is between 1 and 7 (00_scope.md R8). -/
theorem budget_bounds (p : Params) (sp : BitVec 1) : 1 ≤ budget p.val sp ∧ budget p.val sp ≤ 7 := by
  have h := Params.checks p
  have h1 := p.val.nMain.isLt
  have h2 := p.val.nSub.isLt
  unfold budget
  split <;> omega

/-! ### Transmitting -/

/-- What `TxFrame` can do: all bytes out, or a prefix of them. -/
theorem txFrame_cases (ws : List Byte) (s : State) :
    ∃ l : Link, l.rx = s.link.rx ∧ l.arrived = s.link.arrived ∧ l.tx = s.link.tx.drop 1 ∧
      ((txFrame ws s = (true, { s with txf := ws, link := l }) ∧ l.out = s.link.out ++ ws
          ∧ (s.link.tx = [] ∨ s.link.tx.head? = some .ok)) ∨
        (∃ sent, txFrame ws s = (false, { s with txf := ws, link := l })
          ∧ l.out = s.link.out ++ ws.take sent ∧ s.link.tx.head? = some (.fail sent))) := by
  rcases htx : s.link.tx with _ | ⟨d, rest⟩
  · exact ⟨{ s.link with out := s.link.out ++ ws }, rfl, rfl, by simp [htx],
      .inl ⟨by simp [txFrame, drawTx, htx, putOut], rfl, .inl rfl⟩⟩
  · cases d with
    | ok => exact ⟨{ s.link with tx := rest, out := s.link.out ++ ws }, rfl, rfl, rfl,
        .inl ⟨by simp [txFrame, drawTx, htx, putOut], rfl, .inr rfl⟩⟩
    | fail j => exact ⟨{ s.link with tx := rest, out := s.link.out ++ ws.take j }, rfl, rfl, rfl,
        .inr ⟨j, by simp [txFrame, drawTx, htx, putOut], rfl, rfl⟩⟩

/-- What a TX state's action can do: go on, or raise `TX_FAIL`, in a state that differs in the scratch frame and the
link's outbound side alone. -/
theorem transmit_cases (fcmd : Nibble) (d : List Byte) (next : State → State) (s : State) :
    ∃ l : Link, l.rx = s.link.rx ∧ l.arrived = s.link.arrived ∧ s.link.out <+: l.out ∧
      (transmit fcmd d next s = next { s with txf := encodeFrame s.cfg.val fcmd d, link := l } ∨
        transmit fcmd d next s = raise .txFail { s with txf := encodeFrame s.cfg.val fcmd d, link := l }) := by
  obtain ⟨l, h1, h2, -, ⟨h, ho, -⟩ | ⟨sent, h, ho, -⟩⟩ := txFrame_cases (encodeFrame s.cfg.val fcmd d) s
  · exact ⟨l, h1, h2, ho ▸ List.prefix_append _ _, .inl (by simp [transmit, h])⟩
  · exact ⟨l, h1, h2, ho ▸ List.prefix_append _ _, .inr (by simp [transmit, h])⟩

/-- A TX state's action whose transmit answer is ok: all bytes out, then on. -/
theorem transmit_ok (fcmd : Nibble) (d : List Byte) (next : State → State) (s : State)
    (h : s.link.tx = [] ∨ s.link.tx.head? = some .ok) :
    transmit fcmd d next s =
      next { s with
        txf := encodeFrame s.cfg.val fcmd d
        link := { s.link with
          tx := s.link.tx.drop 1
          out := s.link.out ++ encodeFrame s.cfg.val fcmd d } } := by
  rcases htx : s.link.tx with _ | ⟨x, rest⟩
  · simp [transmit, txFrame, drawTx, htx, putOut]
  · simp only [htx, List.head?_cons, Option.some.injEq, reduceCtorEq, false_or] at h
    subst h
    simp [transmit, txFrame, drawTx, htx, putOut]

/-! ### Collecting and receiving -/

/-- The reception loop takes at most the room it has, and what it leaves over is a suffix of the draws: with the
frame ended it took exactly the bytes it answers; with a timeout it took, past those, the timeout itself if the
draws held one. -/
theorem collect_spec (term : Byte) (room : Nat) :
    ∀ (n : Nat) (q : List RxDraw),
      (collect term room n q).1.length ≤ room ∧
      ((collect term room n q).2.2 = true →
        q = (collect term room n q).1.map RxDraw.byte ++ (collect term room n q).2.1) ∧
      ((collect term room n q).2.2 = false →
        (q = (collect term room n q).1.map RxDraw.byte ∧ (collect term room n q).2.1 = []) ∨
        q = (collect term room n q).1.map RxDraw.byte ++ .timeout :: (collect term room n q).2.1) := by
  induction room with
  | zero => intro n q; simp [collect]
  | succ room ih =>
    intro n q
    cases q with
    | nil => simp [collect]
    | cons d q =>
      cases d with
      | timeout => simp [collect]
      | byte b =>
        by_cases h : 1 ≤ n ∧ b = term
        · simp [collect, h]
        · have hc : collect term (room + 1) n (.byte b :: q)
              = (b :: (collect term room (n + 1) q).1, (collect term room (n + 1) q).2) := by
            simp only [collect, if_neg h]
          obtain ⟨h1, h2, h3⟩ := ih (n + 1) q
          rw [hc]
          refine ⟨by simpa using h1, fun ht => ?_, fun hf => ?_⟩
          · have := h2 ht
            simp only [List.map_cons, List.cons_append, List.cons.injEq, true_and]
            exact this
          · rcases h3 hf with ⟨e, e'⟩ | e
            · exact .inl ⟨by simp only [List.map_cons, List.cons.injEq, true_and]; exact e, e'⟩
            · exact .inr (by simp only [List.map_cons, List.cons_append, List.cons.injEq, true_and]; exact e)

/-- What `RxFrame` can do (43_transport.md R182): a timeout after `WIREBUF`, `WLEN`, the scratch count, the timer
and the link's inbound side changed; or, with the header recorded too, a decoding or mode error, or the bytes. -/
theorem rxFrame_cases (l : Nat) (mode : RxMode) (s : State) :
    let r := collect s.cfg.val.terminator (wireWindow l) 0 s.link.rx
    (r.2.2 = false ∧ rxFrame l mode s = (.error .rxTimeout, afterCollect r s)) ∨
    (r.2.2 = true ∧ ∃ e, rxFrame l mode s = (.error e, recordHeader r.1 (afterCollect r s)) ∧
      (decodeFrame s.cfg.val r.1 = .error e ∨
        ∃ h out, decodeFrame s.cfg.val r.1 = .ok (h, out) ∧ modeCheck l mode out.length = some e)) ∨
    (r.2.2 = true ∧ ∃ h out, decodeFrame s.cfg.val r.1 = .ok (h, out)
      ∧ modeCheck l mode out.length = none
      ∧ rxFrame l mode s = (.ok out, recordHeader r.1 (afterCollect r s))) := by
  intro r
  cases hr : r.2.2 with
  | false => exact .inl ⟨rfl, by simp only [rxFrame]; rw [if_neg (by simpa [r] using hr)]⟩
  | true =>
    refine .inr ?_
    have hr' : (collect s.cfg.val.terminator (wireWindow l) 0 s.link.rx).2.2 = true := hr
    cases hd : decodeFrame s.cfg.val r.1 with
    | error e =>
      have hd' : decodeFrame s.cfg.val (collect s.cfg.val.terminator (wireWindow l) 0 s.link.rx).1 = .error e := hd
      exact .inl ⟨rfl, e, by simp only [rxFrame, hr', if_true, hd']; rfl, .inl rfl⟩
    | ok x =>
      obtain ⟨h, out⟩ := x
      have hd' : decodeFrame s.cfg.val (collect s.cfg.val.terminator (wireWindow l) 0 s.link.rx).1
          = .ok (h, out) := hd
      cases hm : modeCheck l mode out.length with
      | some e =>
        exact .inl ⟨rfl, e, by simp only [rxFrame, hr', if_true, hd', hm]; rfl, .inr ⟨h, out, rfl, hm⟩⟩
      | none =>
        exact .inr ⟨rfl, h, out, rfl, hm, by simp only [rxFrame, hr', if_true, hd', hm]; rfl⟩

/-- What an RX state's action can do: go on with the decoded bytes, or raise the error, in a state that differs in
what `RxFrame` writes. -/
theorem receive_cases (l : Nat) (mode : RxMode) (next : List Byte → State → State) (s : State) :
    let r := collect s.cfg.val.terminator (wireWindow l) 0 s.link.rx
    (r.2.2 = false ∧ receive l mode next s = raise .rxTimeout (afterCollect r s)) ∨
    (r.2.2 = true ∧ ∃ e, receive l mode next s = raise e (recordHeader r.1 (afterCollect r s)) ∧
      (decodeFrame s.cfg.val r.1 = .error e ∨
        ∃ h out, decodeFrame s.cfg.val r.1 = .ok (h, out) ∧ modeCheck l mode out.length = some e)) ∨
    (r.2.2 = true ∧ ∃ h out, decodeFrame s.cfg.val r.1 = .ok (h, out)
      ∧ modeCheck l mode out.length = none
      ∧ receive l mode next s = next out (recordHeader r.1 (afterCollect r s))) := by
  intro r
  rcases rxFrame_cases l mode s with ⟨h, e⟩ | ⟨h, c, e, k⟩ | ⟨h, x, out, k1, k2, e⟩
  · exact .inl ⟨h, by simp only [receive, e]; rfl⟩
  · exact .inr (.inl ⟨h, c, by simp only [receive, e]; rfl, k⟩)
  · exact .inr (.inr ⟨h, x, out, k1, k2, by simp only [receive, e]; rfl⟩)

/-! ### Commands -/

/-- What a `CMD` write can do: nothing during reset, acceptance in IDLE, a drop otherwise. -/
theorem command_cases (op : BitVec 4) (sp : BitVec 1) (fc : Nibble) (run : State → State) (s : State) :
    (s.resetIn = true ∧ command op sp fc run s = s) ∨
    (s.resetIn = false ∧ s.fsm = .idle ∧ command op sp fc run s = run (accept op sp fc s)) ∨
    (s.resetIn = false ∧ s.fsm ≠ .idle ∧ command op sp fc run s = drop s) := by
  cases hr : s.resetIn with
  | true => exact .inl ⟨rfl, by simp [command, hr]⟩
  | false =>
    by_cases hf : s.fsm = .idle
    · exact .inr (.inl ⟨rfl, hf, by simp [command, hr, hf]⟩)
    · exact .inr (.inr ⟨rfl, hf, by simp [command, hr, hf]⟩)

/-- What CHECK_ARGS can do: enter the operation's first state, or raise one of the two BADREQ causes. -/
theorem checkArgs_cases (s : State) :
    (∃ x, checkArgs s = goto x s) ∨ checkArgs s = goto .psWrTx { s with attempt := 1 }
      ∨ checkArgs s = raise .lenRange s ∨ checkArgs s = raise .reservedOp s := by
  unfold checkArgs checkLen
  split <;> first
    | exact .inr (.inl rfl)
    | exact .inr (.inr (.inr rfl))
    | (split
       · exact .inl ⟨_, rfl⟩
       · exact .inr (.inr (.inl rfl)))

/-- A phase is the state's action in that state and nothing in any other. -/
theorem phase_of_eq {x : FsmState} {s : State} (h : s.fsm = x) (f : State → State) : phase x f s = f s := by
  simp [phase, h]

theorem phase_of_ne {x : FsmState} {s : State} (h : s.fsm ≠ x) (f : State → State) : phase x f s = s := by
  simp [phase, h]

end Sys2Proof.Machine
end

