-- ==== Sys2Proof/Laws/Fsm.lean ====
section
/-! SUPPORT. What the branching states of the FSM can do, with the conditions they do it under. -/
namespace Sys2Proof.Machine

open Sys2Proof

/-- CHECK_ARGS: into the first state of the latched operation with its length in range (and the first attempt counted
for SELECT_PAGE), or BADREQ `LEN_RANGE` with its length out of range, or BADREQ `RESERVED_OP`. -/
theorem checkArgs_spec (s : State) :
    (s.opl ≠ 7 ∧ lenInRange s.opl s.len = true ∧ ∃ x, requestOf x = some s.opl ∧ checkArgs s = goto x s) ∨
      (s.opl = 7 ∧ checkArgs s = goto .psWrTx { s with attempt := 1 }) ∨
      (lenInRange s.opl s.len = false ∧ checkArgs s = raise .lenRange s) ∨
      ((s.opl = 0 ∨ 8 ≤ s.opl.toNat) ∧ checkArgs s = raise .reservedOp s) := by
  have cases16 : ∀ o : BitVec 4, (o = 0 ∨ 8 ≤ o.toNat) ∨ o = 1 ∨ o = 2 ∨ o = 3 ∨ o = 4 ∨ o = 5 ∨ o = 6 ∨ o = 7 := by
    decide
  have len (x : FsmState) (hx : requestOf x = some s.opl) (h7 : s.opl ≠ 7)
      (e : checkArgs s = checkLen (lenInRange s.opl s.len) x s) :
      (s.opl ≠ 7 ∧ lenInRange s.opl s.len = true ∧ ∃ x, requestOf x = some s.opl ∧ checkArgs s = goto x s) ∨
        (lenInRange s.opl s.len = false ∧ checkArgs s = raise .lenRange s) := by
    cases hb : lenInRange s.opl s.len with
    | true => exact .inl ⟨h7, rfl, x, hx, by rw [e, hb]; rfl⟩
    | false => exact .inr ⟨rfl, by rw [e, hb]; rfl⟩
  rcases cases16 s.opl with h | h | h | h | h | h | h | h
  · refine .inr (.inr (.inr ⟨h, ?_⟩))
    unfold checkArgs
    split <;> first | rfl | (rename_i k; rcases h with h | h <;> simp_all)
  · rcases len .encRun (by simp [requestOf, h]) (by simp [h]) (by simp [checkArgs, lenInRange, h]) with k | k
    · exact .inl k
    · exact .inr (.inr (.inl k))
  · rcases len .decRun (by simp [requestOf, h]) (by simp [h]) (by simp [checkArgs, lenInRange, h]) with k | k
    · exact .inl k
    · exact .inr (.inr (.inl k))
  · rcases len .sendTx (by simp [requestOf, h]) (by simp [h]) (by simp [checkArgs, lenInRange, h]) with k | k
    · exact .inl k
    · exact .inr (.inr (.inl k))
  · rcases len .recvRx (by simp [requestOf, h]) (by simp [h]) (by simp [checkArgs, lenInRange, h]) with k | k
    · exact .inl k
    · exact .inr (.inr (.inl k))
  · rcases len .rrSetupTx (by simp [requestOf, h]) (by simp [h]) (by simp [checkArgs, lenInRange, h]) with k | k
    · exact .inl k
    · exact .inr (.inr (.inl k))
  · rcases len .wrTx (by simp [requestOf, h]) (by simp [h]) (by simp [checkArgs, lenInRange, h]) with k | k
    · exact .inl k
    · exact .inr (.inr (.inl k))
  · exact .inr (.inl ⟨h, by simp [checkArgs, h]⟩)

/-- PS_CHECK: success on equality; another attempt below the budget; the error at the budget. -/
theorem psCheck_spec (s : State) :
    (byteAt s rxBase = s.page ∧ psCheck s = complete (setSpace s.spacel s.page s)) ∨
      (byteAt s rxBase ≠ s.page ∧ s.attempt.toNat < budget s.cfg.val s.spacel ∧
        psCheck s = goto .psWrTx { s with attempt := s.attempt + 1 }) ∨
      (byteAt s rxBase ≠ s.page ∧ budget s.cfg.val s.spacel ≤ s.attempt.toNat ∧
        psCheck s = raise .budgetExhausted s) := by
  by_cases h : byteAt s rxBase = s.page
  · exact .inl ⟨h, by simp [psCheck, h]⟩
  · by_cases hb : s.attempt.toNat < budget s.cfg.val s.spacel
    · exact .inr (.inl ⟨h, hb, by simp [psCheck, h, hb]⟩)
    · exact .inr (.inr ⟨h, by omega, by simp [psCheck, h, hb]⟩)

/-- DEC_RUN: the bytes of a sequence that decodes, or the FramingError; the header is recorded first. -/
theorem decRun_spec (s : State) :
    (∃ h out, decodeFrame s.cfg.val (wirePayload s) = .ok (h, out) ∧
        decRun s = complete { putBytes rxBase out (recordHeader (wirePayload s) s) with
          rlen := BitVec.ofNat 11 out.length }) ∨
      ∃ e, decodeFrame s.cfg.val (wirePayload s) = .error e ∧ decRun s = raise e (recordHeader (wirePayload s) s) := by
  rcases hd : decodeFrame s.cfg.val (wirePayload s) with e | ⟨h, out⟩
  · exact .inr ⟨e, rfl, by simp [decRun, hd]⟩
  · exact .inl ⟨h, out, rfl, by simp [decRun, hd]⟩

end Sys2Proof.Machine
end

