-- ==== Sys2Proof/Laws/HostPort.lean ====
section
/-! SUPPORT. What a host read can return. -/
namespace Sys2Proof.Machine

open Sys2Proof

/-- A host read returns any value, of an unstable word; or any value in the fields alone, while reset is asserted; or
the word of the offset. -/
theorem hostRead_cases (a : Nat) (s : State) :
    (readIsUnstable a s = true ∧
        hostRead a s = { s with rdata := Config.anyRead s.draws, draws := s.draws + 1 }) ∨
      (readIsUnstable a s = false ∧ s.resetIn = true ∧ exactInReset a = false ∧
        hostRead a s = { s with rdata := Config.anyRead s.draws &&& fieldMask a, draws := s.draws + 1 }) ∨
      (readIsUnstable a s = false ∧ (s.resetIn = false ∨ exactInReset a = true) ∧
        hostRead a s = { s with rdata := readWord s a }) := by
  cases hu : readIsUnstable a s <;> cases hr : s.resetIn <;> cases he : exactInReset a <;>
    simp [hostRead, readIsOpen, openWord, hu, hr, he]

end Sys2Proof.Machine
end

