-- ==== Sys2Proof/Machine/HostProgram.lean ====
section
/-! DEFINITION. The host's side of the command port as lists of turns: the primitive accesses of 30_encoding.md R95, the
operation mnemonics of R96, and the two host macros that only name mnemonics (48_host_session.md R264, R269). A program
is placed with `State.withTurns`; the rest of the host session is outside the block (00_scope.md R5). -/
namespace Sys2Proof.Machine

open Sys2Proof

/-- `wr NAME, v` (R95): one aligned word write at the register's offset. -/
def hostWr (offset : Nat) (v : Word) : Turn := .host (.write 4 offset v)

/-- `rd NAME` (R95). -/
def hostRd (offset : Nat) : Turn := .host (.read 4 offset)

/-- Bytes packed into little-endian words, the last one padded with zeros (R95, 20_memory.md R61). -/
def packWords : List Byte → List Word
  | [] => []
  | [b0] => [wordOf b0 0 0 0]
  | [b0, b1] => [wordOf b0 b1 0 0]
  | [b0, b1, b2] => [wordOf b0 b1 b2 0]
  | b0 :: b1 :: b2 :: b3 :: bs => wordOf b0 b1 b2 b3 :: packWords bs

/-- Word writes from an offset on. -/
def writeWords (offset : Nat) : List Word → List Turn
  | [] => []
  | v :: vs => hostWr offset v :: writeWords (offset + 4) vs

/-- `wrbuf TX, [...]` and `wrbuf WIRE, [...]` (R95), by the buffer's base offset. -/
def writeBuffer (base : Nat) (bs : List Byte) : List Turn := writeWords base (packWords bs)

/-- `wr LEN, m` for a count of bytes (R96). -/
def writeLen (m : Nat) : Turn := hostWr 0x00C (BitVec.ofNat 32 m)

/-- `ENC c, [d...]` (R96). -/
def progEnc (c : Nibble) (d : List Byte) : List Turn :=
  writeBuffer txBase d ++ [writeLen d.length, .request (commandWord 0x1 0 c)]

/-- `DEC [w...]` (R96). -/
def progDec (w : List Byte) : List Turn :=
  writeBuffer wireBase w ++ [writeLen w.length, .request (commandWord 0x2 0 0)]

/-- `SEND c, [d...]` (R96). -/
def progSend (c : Nibble) (d : List Byte) : List Turn :=
  writeBuffer txBase d ++ [writeLen d.length, .request (commandWord 0x3 0 c)]

/-- `RECV L` (R96), `L` as the 16 bits that `L & 0xFFFF` keeps. -/
def progRecv (l : BitVec 16) : List Turn :=
  [hostWr 0x00C (l.setWidth 32), .request (commandWord 0x4 0 0)]

/-- `RDREG reg, len` (R96). -/
def progReadReg (r : Byte) (len : Nat) : List Turn :=
  [hostWr 0x008 (r.setWidth 32), writeLen len, .request (commandWord 0x5 0 0)]

/-- `WRREG reg, [d...]` (R96). -/
def progWriteReg (r : Byte) (d : List Byte) : List Turn :=
  writeBuffer txBase d ++ [hostWr 0x008 (r.setWidth 32), writeLen d.length, .request (commandWord 0x6 0 0)]

/-- `SELPG page, main` and `SELPG page, sub` (R96). -/
def progSelectPage (p : Byte) (space : BitVec 1) : List Turn :=
  [hostWr 0x010 (p.setWidth 32), .request (commandWord 0x7 space 0)]

/-- `WAKE` (R264), its reply length an argument (`WAKE_REPLY_LEN`, default -1). -/
def progWake (replyLen : BitVec 16) : List Turn := progSend 0 wakeMessage ++ progRecv replyLen

/-- `RDPG page, space, reg, len` (R269). DESIGN CHOICE (notes/assumptions/27.md): the list goes on with its RDREG
whatever the SELPG before it ended in, since R269 joins the two with no condition; the host of the vector P2
(95_test_vectors.md), which stops on `ERR != 0`, is one whose list ends after the SELPG. -/
def progReadPaged (p : Byte) (space : BitVec 1) (r : Byte) (len : Nat) : List Turn :=
  progSelectPage p space ++ progReadReg r len

/-- A state with further turns to come, after those already listed. -/
def State.withTurns (s : State) (ts : List Turn) : State := { s with sched := s.sched ++ ts }

end Sys2Proof.Machine
end

