-- ==== Sys2Proof/Tests/Slice0.lean ====
section
/-! SUPPORT. Tests: the checks of WellFormed and of the parameter record on ill-formed terms, a hand-written code for
every constructor, one-step vectors of 95_test_vectors.md (they assume the default table, log entry 1), and, for every
statement with hypotheses, a concrete state and operands that meet them. -/
-- One theorem at a time: the many small kernel evaluations below need no threads of their own.
set_option Elab.async false

namespace Sys2Proof.Tests

open Sys2Proof Sys2Proof.Machine

/-! ### Small states -/

/-- The reset state with a length, inbound wire bytes, transmit answers and written buffer bytes. -/
def block (len : BitVec 16) (rx : List Byte) (tx : List TxDraw) (mem : Memory) : State :=
  { State.reset with
    len := len
    mem := mem
    link := { rx := arriving rx, arrived := 0, tx := tx, out := [] } }

/-- A request of `op` in progress in a given state of the FSM. -/
def running (op : BitVec 4) (x : FsmState) (s : State) : State := { s with opl := op, fsm := x }

/-- The state after an instruction that answers one. -/
def after (i : Instr) (s : State) : State :=
  match exec i s with
  | .next t => t
  | _ => s

/-- The state after a step that answers one. -/
def stepped (s : State) : State :=
  match step s with
  | .next t => t
  | _ => s

/-- Both tracked pages valid: `PAGETRK = 0x01040102`, the pre-state of 95_test_vectors.md sections 1.4 and 2.6. -/
def tracked (s : State) : State := { s with mainValid := true, mainPage := 2, subValid := true, subPage := 4 }

/-- The FAULTED state an RX timeout of RECV leaves. -/
def faultedBlock : State :=
  { State.reset with fsm := .faulted, opl := 4, err := 1, cause := 1, errPhase := 5, done := true }

/-! ### Ill-formed terms are refused (WellFormed, Config.wf) -/

theorem test_wf_mWr_254 : (Instr.mWr 0x21 (List.replicate 254 0)).wf = true := by decide +kernel
theorem test_wf_mWr_255_refused : (Instr.mWr 0x21 (List.replicate 255 0)).wf = false := by decide +kernel
theorem test_wf_fFrame_512 : (Instr.fFrame 0 (List.replicate 512 0)).wf = true := by decide +kernel
theorem test_wf_fFrame_513_refused : (Instr.fFrame 0 (List.replicate 513 0)).wf = false := by decide +kernel

/-- R131: `S[3] = S[5]` is refused (95_test_vectors.md section 2.1). -/
theorem test_config_duplicate_symbol_refused :
    { Config.default with cipherFwd := sGk.set 3 0x66 }.wf = false := by decide

/-- R131: `S[0] = 0x00` is refused (95_test_vectors.md section 2.1). -/
theorem test_config_symbol_is_terminator_refused :
    { Config.default with cipherFwd := sGk.set 0 0x00 }.wf = false := by decide

/-- R131: a symbol of an even index whose masked value is the terminator is refused. -/
theorem test_config_header_is_terminator_refused :
    { Config.default with cipherFwd := sGk.set 0 0x03 }.wf = false := by decide

theorem test_config_nMain_zero_refused : { Config.default with nMain := 0 }.wf = false := by decide
theorem test_config_nSub_zero_refused : { Config.default with nSub := 0 }.wf = false := by decide
theorem test_config_recvDefaultLen_refused : { Config.default with recvDefaultLen := 513 }.wf = false := by decide
theorem test_config_pageRegs_equal_refused : { Config.default with mainPageReg := 0xE7 }.wf = false := by decide
theorem test_config_setupAckLen_refused : { Config.default with setupAckLen := 513 }.wf = false := by decide
theorem test_config_wrAckLen_zero_refused : { Config.default with wrAckLen := 0 }.wf = false := by decide
theorem test_config_wrAckLen_large_refused : { Config.default with wrAckLen := 513 }.wf = false := by decide

/-- R156: `HDR_DEC_MASKED` is refused where two symbols that differ above bit 0 share a masked value that is no
symbol. -/
theorem test_config_masked_ambiguous_refused :
    { Config.maskedHeaders with cipherFwd := sGk.set 2 0x57 }.wf = false := by decide

/-- R139: the gate refuses a table with a symbol twice, and one of a single symbol, without R131's own check. -/
theorem test_gate_refuses :
    { Config.default with cipherFwd := sGk.set 3 0x66 }.gate = false ∧
    { Config.default with cipherFwd := Vector.replicate 16 0x55 }.gate = false := by decide +kernel

/-! ### Every constructor's code, written out by hand -/

theorem test_decode_enc : decode Config.default (.command 0x00000301) = .ok (.enc 0 3) := by decide
theorem test_decode_dec : decode Config.default (.command 0x00000002) = .ok (.dec 0 0) := by decide
theorem test_decode_send : decode Config.default (.command 0x00000003) = .ok (.send 0 0) := by decide
theorem test_decode_recv : decode Config.default (.command 0x00000004) = .ok (.recv 0 0) := by decide
theorem test_decode_readReg : decode Config.default (.command 0xFFFFF0F5) = .ok (.readReg 1 0) := by decide
theorem test_decode_writeReg : decode Config.default (.command 0x00000F06) = .ok (.writeReg 0 15) := by decide
theorem test_decode_selectPage : decode Config.default (.command 0x00000017) = .ok (.selectPage 1 0) := by decide
theorem test_decode_reserved0 : decode Config.default (.command 0x00000000) = .ok (.reserved0 0 0) := by decide
theorem test_decode_reserved8 : decode Config.default (.command 0x00000008) = .ok (.reserved8 0 0) := by decide
theorem test_decode_reserved9 : decode Config.default (.command 0x00000019) = .ok (.reserved9 1 0) := by decide
theorem test_decode_reservedA : decode Config.default (.command 0x0000010A) = .ok (.reservedA 0 1) := by decide
theorem test_decode_reservedB : decode Config.default (.command 0x0000000B) = .ok (.reservedB 0 0) := by decide
theorem test_decode_reservedC : decode Config.default (.command 0x000000EC) = .ok (.reservedC 0 0) := by decide
theorem test_decode_reservedD : decode Config.default (.command 0x0000080D) = .ok (.reservedD 0 8) := by decide
theorem test_decode_reservedE : decode Config.default (.command 0xFFFFF00E) = .ok (.reservedE 0 0) := by decide
theorem test_decode_reservedF : decode Config.default (.command 0x0000000F) = .ok (.reservedF 0 0) := by decide

/-- M-RRS of register 0x9A, 7 bytes (95_test_vectors.md section 1.8). -/
theorem test_decode_mRrs :
    decode Config.default (.message [0x13, 0x03, 0x06, 0x01, 0x07, 0x07, 0x9A]) = .ok (.mRrs 7 0x9A) := by decide

/-- M-RRT of 7 bytes (section 1.8). -/
theorem test_decode_mRrt : decode Config.default (.message [0x08, 0x07, 0x07]) = .ok (.mRrt 7) := by decide

/-- M-WR of register 0x00 with data 04 (section 1.8). -/
theorem test_decode_mWr :
    decode Config.default (.message [0x13, 0x01, 0x04, 0x02, 0x00, 0x04]) = .ok (.mWr 0x00 [4]) := by decide

/-- M-WR whose byte 3 does not count its data is no message (R84). -/
theorem test_decode_mWr_wrong_count :
    decode Config.default (.message [0x13, 0x01, 0x04, 0x03, 0x00, 0x04]) = .error .notAMessage := by decide

theorem test_decode_mSack : decode Config.default (.reply .afterSetup) = .ok .mSack := by decide
theorem test_decode_mTrep : decode Config.default (.reply (.afterTrigger 7)) = .ok (.mTrep 7) := by decide
theorem test_decode_mWack : decode Config.default (.reply .afterWrite) = .ok .mWack := by decide

/-- M-WAKE (section 1.8). -/
theorem test_decode_mWake :
    decode Config.default (.message [0x11, 0x02, 0x64, 0x00, 0x00, 0x00, 0x00]) = .ok .mWake := by decide

/-- `Encode(3, [A5])` is `68 | 66 99 | 00` (section 1.1). -/
theorem test_decode_fFrame :
    decode Config.default (.wire [0x68, 0x66, 0x99, 0x00]) = .ok (.fFrame 3 [0xA5]) := by decide

/-- A frame's refusals by name: one byte, three bytes, no terminator, no header of a command, a data byte that is no
symbol. -/
theorem test_decode_fFrame_refused :
    decode Config.default (.wire [0x54]) = .error .frameLength ∧
    decode Config.default (.wire [0x54, 0x55, 0x00]) = .error .frameLength ∧
    decode Config.default (.wire [0x54, 0x55, 0x55, 0x56]) = .error .frameTerminator ∧
    decode Config.default (.wire [0x55, 0x00]) = .error .frameHeader ∧
    decode Config.default (.wire [0x54, 0x57, 0x55, 0x00]) = .error .frameSymbol := by decide

/-- The table's own words: `ENC` in 8 and 32 bits, M-RRS, M-RRT and M-WR with their variable bytes 0. -/
theorem test_decodeTableWord :
    decodeTableWord 32 0x00000001 = some (.enc 0 0) ∧ decodeTableWord 8 0x17 = some (.selectPage 1 0) ∧
    decodeTableWord 56 0x00000701060313 = some (.mRrs 0 0) ∧ decodeTableWord 24 0x000708 = some (.mRrt 0) ∧
    decodeTableWord 40 0x0001040113 = some (.mWr 0 []) ∧ decodeTableWord 40 0x0000040113 = some (.mWr 0 []) ∧
    decodeTableWord 40 0x0003040113 = some (.mWr 0 [0, 0]) ∧ decodeTableWord 56 0x00000000640211 = some .mWake := by
  decide

/-- A placed command word is the next request; a placed message row is what the next step transmits. -/
theorem test_withFetchWord :
    statusWord (stepped (State.reset.withFetchWord 32 0x0000000F)) = 0x00000152 ∧
    (stepped (State.reset.withFetchWord 24 0x070708)).link.out
      = [0x54, 0x95, 0x55, 0x6A, 0x55, 0x6A, 0x55, 0x00] ∧
    (stepped (State.reset.withFetchWord 40 0x0001040113)).link.out
      = [0x54, 0x5A, 0x56, 0x56, 0x55, 0x65, 0x55, 0x56, 0x55, 0x55, 0x55, 0x00] := by decide +kernel

/-! ### Vectors of 95_test_vectors.md, one step each -/

/-- Section 1.1: `Encode(0, [13 03])`; section 1.9: the header of commands 0 to 7. -/
theorem test_encodeFrame :
    encodeFrame Config.default 0 [0x13, 0x03] = [0x54, 0x5A, 0x56, 0x5A, 0x55, 0x00] ∧
    headerCommands.map (header Config.default) = [0x54, 0x58, 0x64, 0x68, 0x94, 0x98, 0xA4, 0xA8] := by decide

/-- Section 2.2: checks in order, and the header that is recorded. -/
theorem test_decodeFrame :
    decodeFrame Config.default [0xAA, 0xA6, 0x65, 0x96, 0x95, 0x00] = .ok (15, [0x4D, 0x89]) ∧
    decodeFrame Config.default [0x54, 0x57, 0x55, 0x01] = .error .noTerminator ∧
    decodeFrame Config.default [0xA6, 0x57, 0x55, 0x00] = .error .hdrSentinel ∧
    decodeFrame Config.default [0xA9, 0x55, 0x00, 0x00] = .error .dataSymbol ∧
    decodeFrame Config.maskedHeaders [0xA8, 0x00] = .ok (14, []) ∧
    headerExtract Config.maskedHeaders 0x54 = (true, 0) := by decide

/-- Section 2.3: `ENC 0, [13 03]`. -/
theorem test_enc :
    statusWord (after (.enc 0 0) (block 2 [] [] [(0x400, 0x13), (0x401, 0x03)])) = 0x00000002 ∧
    resultWord (after (.enc 0 0) (block 2 [] [] [(0x400, 0x13), (0x401, 0x03)])) = 0x00000006 ∧
    bytesAt (after (.enc 0 0) (block 2 [] [] [(0x400, 0x13), (0x401, 0x03)])) 0x800 6
      = [0x54, 0x5A, 0x56, 0x5A, 0x55, 0x00] := by decide

/-- Section 2.3: `DEC [AA A6 65 96 95 00]`. -/
theorem test_dec :
    let t := after (.dec 0 0) (block 6 [] []
      [(0x800, 0xAA), (0x801, 0xA6), (0x802, 0x65), (0x803, 0x96), (0x804, 0x95), (0x805, 0x00)])
    statusWord t = 0x00F80002 ∧ resultWord t = 0x00000002 ∧ bytesAt t 0x600 2 = [0x4D, 0x89] ∧ t.wlen = 0 := by
  decide

/-- Section 2.3: DEC of one byte `A9` is `SHORT`, its header recorded. -/
theorem test_dec_short :
    statusWord (after (.dec 0 0) (block 1 [] [] [(0x800, 0xA9)])) = 0x00E80122 := by decide

/-- Section 2.4: `SEND 0, [13]` whose transmit fails after two bytes. -/
theorem test_send_txfail :
    let t := after (.send 0 0) (block 1 [] [.fail 2] [(0x400, 0x13)])
    statusWord t = 0x08000216 ∧ errInfoWord t = 0x04000000 ∧ t.link.out = [0x54, 0x5A] := by decide

/-- Section 2.4: `RECV 1` of `A9 55 55 55 55 00`. -/
theorem test_recv_too_long :
    let t := after (.recv 0 0) (block 1 [0xA9, 0x55, 0x55, 0x55, 0x55, 0x00] [] [])
    statusWord t = 0x00E80322 ∧ t.link.rx = arriving [0x55, 0x00] := by decide

/-- Section 2.4: `RECV 1` of `00 AA 00`: a leading terminator byte does not end the frame. -/
theorem test_recv_leading_zero :
    statusWord (after (.recv 0 0) (block 1 [0x00, 0xAA, 0x00] [] [])) = 0x00000222 := by decide

/-- Section 2.5: `RDREG 0x8B, 2`. -/
theorem test_readReg :
    let t := after (.readReg 0 0) { block 2 [0xAA, 0x00, 0xA9, 0x65, 0x5A, 0x59, 0x56, 0x55, 0x55, 0x00] [] [] with
      reg := 0x8B }
    statusWord t = 0x00E80002 ∧ resultWord t = 0x00000002 ∧ bytesAt t 0x600 3 = [0x34, 0x12, 0x00] ∧
    t.link.out = [0x54, 0x5A, 0x56, 0x5A, 0x55, 0x69, 0x55, 0x56, 0x55, 0x6A, 0x55, 0x59, 0x55, 0x9A, 0x95, 0x00]
      ++ [0x54, 0x95, 0x55, 0x6A, 0x55, 0x59, 0x55, 0x00] := by decide

/-- Section 2.5: a setup reply of two logical bytes. -/
theorem test_readReg_setup_nonempty :
    let t := after (.readReg 0 0) { block 7 [0xA9, 0x55, 0x55, 0x55, 0x55, 0x00] [] [] with reg := 0x9A }
    statusWord t = 0x00E80132 ∧ errInfoWord t = 0x0700009A := by decide

/-- Section 2.6: `WRREG 0xE7, [01]` clears the sub-page tracking. -/
theorem test_writeReg :
    let t := after (.writeReg 0 0) (tracked { block 1 [0xA9, 0x55, 0x55, 0x00] [] [(0x400, 0x01)] with reg := 0xE7 })
    statusWord t = 0x00E80002 ∧ pageTrkWord t = 0x00040102 ∧
    t.link.out = [0x54, 0x5A, 0x56, 0x56, 0x55, 0x65, 0x55, 0x59, 0x55, 0x6A, 0xA9, 0x56, 0x55, 0x00] := by decide

/-- Section 2.6: an empty acknowledge. -/
theorem test_writeReg_empty_ack :
    let t := after (.writeReg 0 0) (tracked { block 1 [0xAA, 0x00] [] [(0x400, 0x01)] with reg := 0x10 })
    statusWord t = 0x00F80722 ∧ errInfoWord t = 0x0B000010 ∧ pageTrkWord t = 0x00040002 := by decide

/-- One attempt's replies as the vectors of section 1.4 have them, reading back a value's two symbols. -/
def attemptBytes (lo hi : Byte) : List Byte :=
  [0xA9, 0x55, 0x55, 0x00, 0xAA, 0x00, 0xA9, lo, hi, 0x55, 0x55, 0x00]

/-- Section 1.4, main, k = 1. -/
theorem test_selectPage_second_attempt :
    let t := after (.selectPage 0 0)
      (tracked { block 0 (attemptBytes 0x96 0x55 ++ attemptBytes 0x65 0x55) [] [] with page := 4 })
    statusWord t = 0x00EA0002 ∧ resultWord t = 0x00000001 ∧ pageTrkWord t = 0x01040104 := by
  decide +kernel

/-- Section 1.4, sub, k = 5. -/
theorem test_selectPage_exhausted :
    let t := after (.selectPage 1 0)
      (tracked { block 0 (List.replicate 5 (attemptBytes 0x96 0x55)).flatten [] [] with page := 4 })
    statusWord t = 0x00ED0142 ∧ errInfoWord t = 0x120104E7 ∧ pageTrkWord t = 0x00040002 := by
  decide +kernel

/-- Section 2.8: `wr CMD, 0x0` and `wr CMD, 0xF`. -/
theorem test_reserved :
    statusWord (after (.reserved0 0 0) State.reset) = 0x00000152 ∧
    errInfoWord (after (.reservedF 0 0) State.reset) = 0x13000000 := by decide

/-- Section 2.8: a request and an operand write while RR_TRIG_RX is busy. -/
theorem test_busy_writes_dropped :
    let s := running 5 .rrTrigRx (block 7 [] [] [])
    hostWrite 0x000 0x00000005 s = { s with overrun := true } ∧
    hostWrite 0x00C 0x00000003 s = { s with overrun := true } := by decide

/-- Section 3, P4: the drop in FAULTED, and the reset that recovers. -/
theorem test_faulted_and_reset :
    statusWord (hostWrite 0x000 0x00000005 faultedBlock) = 0x0800011E ∧
    statusWord (releaseReset (assertReset 0 faultedBlock)) = 0x00000000 := by decide

/-- `STATUS` is exact while reset is asserted (20_memory.md R71): after a reset that ended a FAULTED request it reads 0,
the reset value of R340, and no `DONE`. -/
theorem test_status_in_reset :
    (hostRead 0x004 (assertReset 0 faultedBlock)).rdata = 0x00000000 ∧
    (hostRead 0x004 faultedBlock).rdata = 0x08000116 := by decide

/-- Section 2.9: `PARAM0`, `PARAM1` and the `CIPHER` window at their defaults (R44, R45, R47). -/
theorem test_constants :
    readWord State.reset 0x020 = 0xFCE70053 ∧ readWord State.reset 0x024 = 0x74020200 ∧
    readWord State.reset 0x040 = 0x5A595655 ∧ readWord State.reset 0x04C = 0xAAA9A6A5 := by decide

/-- Section 3, P1 and P3: the bus accesses of the mnemonics. -/
theorem test_mnemonics :
    progSend 0 wakeMessage = [hostWr 0x400 0x00640211, hostWr 0x404 0x00000000, hostWr 0x00C 0x00000007,
      .request 0x00000003] ∧
    progSelectPage 3 1 = [hostWr 0x010 0x00000003, .request 0x00000017] ∧
    progDec [0x54, 0x5A, 0x56, 0x5A, 0x55, 0x00] = [hostWr 0x800 0x5A565A54, hostWr 0x804 0x00000055,
      hostWr 0x00C 0x00000006, .request 0x00000002] ∧
    progRecv 0xFFFF = [hostWr 0x00C 0x0000FFFF, .request 0x00000004] := by decide

/-- M-RRS in RR_SETUP_TX (section 2.5): the setup frame of `RDREG 0x9A, 0`. -/
theorem test_mRrs :
    (after (.mRrs 0 0x9A) (running 5 .rrSetupTx State.reset)).link.out
      = [0x54, 0x5A, 0x56, 0x5A, 0x55, 0x69, 0x55, 0x56, 0x55, 0x6A, 0x55, 0x55, 0x55, 0x99, 0x96, 0x00] := by decide

/-- M-RRT in RR_TRIG_TX (section 2.5): the trigger frame of `RDREG 0x9A, 0`. -/
theorem test_mRrt :
    (after (.mRrt 0) (running 5 .rrTrigTx State.reset)).link.out = [0x54, 0x95, 0x55, 0x6A, 0x55, 0x55, 0x55, 0x00] := by
  decide

/-- M-WR in WR_TX (section 2.6): `WRREG 0x03, []`. -/
theorem test_mWr :
    (after (.mWr 0x03 []) (running 6 .wrTx State.reset)).link.out
      = [0x54, 0x5A, 0x56, 0x56, 0x55, 0x65, 0x55, 0x56, 0x55, 0x5A, 0x55, 0x00] := by decide

/-- M-SACK, M-TREP and M-WACK (sections 2.5, 2.6): the states they lead to and what they leave. -/
theorem test_replies :
    (after .mSack (running 5 .rrSetupRx (block 0 [0xAA, 0x00] [] []))).fsm = .rrTrigTx ∧
    resultWord (after (.mTrep 0) (running 5 .rrTrigRx (block 0 [0xA9, 0xA5, 0x66, 0x00] [] []))) = 0x005C0000 ∧
    resultWord (after .mWack (running 6 .wrRx (block 0 [0xA9, 0x99, 0x66, 0x00] [] []))) = 0x5A000001 := by decide

/-- M-WAKE in SEND_TX (section 1.8). -/
theorem test_mWake :
    (after .mWake (running 3 .sendTx State.reset)).link.out
      = [0x54, 0x56, 0x56, 0x59, 0x55, 0x65, 0x69, 0x55, 0x55, 0x55, 0x55, 0x55, 0x55, 0x55, 0x55, 0x00] := by decide

/-- F-FRAME in SEND_TX (section 2.2): the alias of command 1. -/
theorem test_fFrame :
    (after (.fFrame 9 [0x00]) (running 3 .sendTx State.reset)).link.out = [0x58, 0x55, 0x55, 0x00] := by decide

/-! ### Witnesses: for every statement with hypotheses, states and operands that meet them

Each theorem names the statement it is for. Where a statement has several clauses, each clause has its witness, at a
boundary value of its range where it has one. -/

/-- ReplyFramesDecode: the two header bytes that pass under the default record (R156, R157). -/
theorem witness_ReplyFramesDecode : goodHeader Config.default 0xA9 14 ∧ goodHeader Config.default 0xAA 15 := by decide

/-- EncodeDecodeAgree: the default record, with the longest M-WR and the longest frame. -/
theorem witness_EncodeDecodeAgree :
    messagesDistinct Params.default.val ∧ headersDistinct Params.default.val ∧
    (Instr.mWr 0xE7 (List.replicate 254 0)).wf = true ∧ (Instr.fFrame 15 (List.replicate 512 0)).wf = true := by
  decide +kernel

/-- IgnoredEncodingBits: two words that differ in every ignored bit. -/
theorem witness_IgnoredEncodingBits :
    (0xFFFFF0F5 : Word) &&& 0x00000F1F = (0x00000015 : Word) &&& 0x00000F1F := by decide

/-- MessageBytesAsTabled: the longest data string. -/
theorem witness_MessageBytesAsTabled : (List.replicate 254 (0 : Byte)).length ≤ 254 := by decide +kernel

/-- CipherTablesInverse: the default table, with a reverse entry that is valid. -/
theorem witness_CipherTablesInverse :
    Config.default.injective = true ∧ reverse Config.default 0xAA = some 15 := by decide

/-- EncodedFrameShape: the longest payload, with the first and the last data position. -/
theorem witness_EncodedFrameShape :
    (List.replicate 512 (0 : Byte)).length ≤ 512 ∧ 1 ≤ 1 ∧ 1 ≤ 2 * (List.replicate 512 (0 : Byte)).length ∧
    1 ≤ 1024 ∧ 1024 ≤ 2 * (List.replicate 512 (0 : Byte)).length := by decide +kernel

/-- FrameRoundTrip: the longest payload. -/
theorem witness_FrameRoundTrip : (List.replicate 512 (0 : Byte)).length ≤ 512 := by decide +kernel

/-- SentinelLaw: the shortest sequence, with a header that does not decode, and with one that fails the sentinel. -/
theorem witness_SentinelLaw :
    (let w : List Byte := [0x54, 0x00]
     2 ≤ w.length ∧ w.length % 2 = 0 ∧ w.getLast? = some Config.default.terminator ∧
      hdrDecode Config.default (w.headD 0) = none) ∧
    (let w : List Byte := [0xA6, 0x00]
     2 ≤ w.length ∧ w.length % 2 = 0 ∧ w.getLast? = some Config.default.terminator ∧
      hdrDecode Config.default (w.headD 0) = some 13 ∧
      (13 : Nibble).extractLsb' 1 3 ≠ Config.default.replySentinel) := by decide

/-- DecodedContent: a sequence of two bytes' payload, at its last byte. -/
theorem witness_DecodedContent :
    decodeFrame Config.default [0xAA, 0xA6, 0x65, 0x96, 0x95, 0x00] = .ok (15, [0x4D, 0x89]) ∧
    1 < ([0x4D, 0x89] : List Byte).length := by decide

/-- ReceiveLengthAccounting: a receive that succeeds in each mode (for `l = 0`, `1` and `512`). -/
theorem witness_ReceiveLengthAccounting :
    (rxFrame 0 .exact (block 0 [0xAA, 0x00] [] [])).1 = .ok [] ∧
    (rxFrame 1 .empty (block 0 [0xAA, 0x00] [] [])).1 = .ok [] ∧
    (rxFrame 512 .upTo (block 0 [0xA9, 0x5A, 0x56, 0x00] [] [])).1 = .ok [0x13] := by decide +kernel

/-- UnconsumedBytesStay: the largest length, a receive that times out. -/
theorem witness_UnconsumedBytesStay :
    512 ≤ 512 ∧ (rxFrame 512 .exact (block 0 [0xA9, 0x5A] [] [])).1 = .error .rxTimeout := by decide +kernel

/-- SendRequestResult: the longest frame, with an answer ok and with one that fails before the first byte. -/
theorem witness_SendRequestResult :
    (let s := block 512 [] [.ok] []
     s.resetIn = false ∧ s.fsm = .idle ∧ s.len.toNat ≤ 512 ∧ txSucceeds 1 s) ∧
    (let s := block 512 [] [.fail 0] []
     s.resetIn = false ∧ s.fsm = .idle ∧ s.len.toNat ≤ 512 ∧ s.link.tx.head? = some (.fail 0)) := by decide

/-- RecvRequestResult: EXACT of the longest length and of none, and UPTO of the default length. -/
theorem witness_RecvRequestResult :
    (let d : List Byte := List.replicate 512 0
     let s := block 512 (replyFrame Config.default 0xA9 d) [] []
     s.resetIn = false ∧ s.fsm = .idle ∧ s.len.msb = false ∧ s.len.toNat ≤ 512 ∧ d.length = s.len.toNat ∧
      goodHeader s.cfg.val 0xA9 14 ∧ s.link.rx = arriving (replyFrame s.cfg.val 0xA9 d) ++ []) ∧
    (let s := block 0 (replyFrame Config.default 0xAA []) [] []
     s.resetIn = false ∧ s.fsm = .idle ∧ s.len.msb = false ∧ s.len.toNat ≤ 512 ∧ 0 = s.len.toNat ∧
      goodHeader s.cfg.val 0xAA 15 ∧ s.link.rx = arriving (replyFrame s.cfg.val 0xAA []) ++ []) ∧
    (let d : List Byte := List.replicate 512 0
     let s := block 0x8000 (replyFrame Config.default 0xA9 d) [] []
     s.resetIn = false ∧ s.fsm = .idle ∧ s.len.msb = true ∧ d.length ≤ s.cfg.val.recvDefaultLen.toNat ∧
      goodHeader s.cfg.val 0xA9 14 ∧ s.link.rx = arriving (replyFrame s.cfg.val 0xA9 d) ++ []) := by decide +kernel

/-- RecvWrongLengthReply: a reply one byte too short, and one a byte too long for each mode. -/
theorem witness_RecvWrongLengthReply :
    (let s := block 1 (replyFrame Config.default 0xAA []) [] []
     s.resetIn = false ∧ s.fsm = .idle ∧ goodHeader s.cfg.val 0xAA 15 ∧
      s.link.rx = arriving (replyFrame s.cfg.val 0xAA []) ++ [] ∧
      s.len.msb = false ∧ s.len.toNat ≤ 512 ∧ ([] : List Byte).length < s.len.toNat) ∧
    (let s := block 0 (replyFrame Config.default 0xA9 [0x00]) [] []
     s.resetIn = false ∧ s.fsm = .idle ∧ goodHeader s.cfg.val 0xA9 14 ∧
      s.link.rx = arriving (replyFrame s.cfg.val 0xA9 [0x00]) ++ [] ∧
      s.len.msb = false ∧ s.len.toNat ≤ 512 ∧ 0 = s.len.toNat ∧ 0 < ([0x00] : List Byte).length) ∧
    (let d : List Byte := List.replicate 513 0
     let s := block 0x8000 (replyFrame Config.default 0xA9 d) [] []
     s.resetIn = false ∧ s.fsm = .idle ∧ goodHeader s.cfg.val 0xA9 14 ∧
      s.link.rx = arriving (replyFrame s.cfg.val 0xA9 d) ++ [] ∧
      s.len.msb = true ∧ 512 = s.cfg.val.recvDefaultLen.toNat ∧ 512 < d.length) := by decide +kernel

/-- RecvTimeoutFaults: one byte before the timeout (of the two asked for), and none, for a negative length. -/
theorem witness_RecvTimeoutFaults :
    (let s := { block 0 [] [] [] with
      link := { rx := arriving [0xA9] ++ [RxDraw.timeout], arrived := 0, tx := [], out := [] } }
     s.resetIn = false ∧ s.fsm = .idle ∧ s.len.toNat ≤ 512 ∧
      ([0xA9] : List Byte).length < (if s.len.msb then 2 * s.cfg.val.recvDefaultLen.toNat + 2 else 2 * s.len.toNat + 2) ∧
      s.link.rx = arriving [0xA9] ++ [RxDraw.timeout]) ∧
    (let s := { block 0x8000 [] [] [] with
      link := { rx := arriving [] ++ [RxDraw.timeout], arrived := 0, tx := [], out := [] } }
     s.resetIn = false ∧ s.fsm = .idle ∧ s.len.msb = true ∧
      ([] : List Byte).length < (if s.len.msb then 2 * s.cfg.val.recvDefaultLen.toNat + 2 else 2 * s.len.toNat + 2) ∧
      s.link.rx = arriving [] ++ [RxDraw.timeout]) := by decide

/-- RecvTimeoutFaults, its hypothesis on the bytes: no terminator past the first of them. -/
theorem witness_RecvTimeoutFaults_bytes :
    ∀ i, 1 ≤ i → ([0xA9] : List Byte)[i]? ≠ some Config.default.terminator := by
  intro i hi
  rw [List.getElem?_eq_none (by simpa using hi)]
  simp

/-- EncRequestResult: the longest payload. -/
theorem witness_EncRequestResult :
    let s := block 512 [] [] []
    s.resetIn = false ∧ s.fsm = .idle ∧ s.len.toNat ≤ 512 := by decide

/-- DecRequestResult: a sequence that decodes; one byte, which does not; and no byte. -/
theorem witness_DecRequestResult :
    (let s := block 2 [] [] [(0x800, 0xAA), (0x801, 0x00)]
     s.resetIn = false ∧ s.fsm = .idle ∧ s.len.toNat ≤ 1026 ∧
      decodeFrame s.cfg.val (bytesAt s 0x800 s.len.toNat) = .ok (15, [])) ∧
    (let s := block 1 [] [] [(0x800, 0xA9)]
     s.resetIn = false ∧ s.fsm = .idle ∧ s.len.toNat ≤ 1026 ∧ 1 ≤ s.len.toNat ∧
      decodeFrame s.cfg.val (bytesAt s 0x800 s.len.toNat) = .error .short) ∧
    (let s := block 0 [] [] []
     s.resetIn = false ∧ s.fsm = .idle ∧ s.len.toNat ≤ 1026 ∧ s.len.toNat = 0 ∧
      decodeFrame s.cfg.val (bytesAt s 0x800 s.len.toNat) = .error .short) := by decide

/-- ReadRegRequestResult: the longest payload and none. -/
theorem witness_ReadRegRequestResult :
    (let d : List Byte := List.replicate 255 0
     let s := block 255 (replyFrame Config.default 0xAA [] ++ replyFrame Config.default 0xA9 (d ++ [0x5C])) [] []
     s.resetIn = false ∧ s.fsm = .idle ∧ s.len.toNat ≤ 255 ∧ d.length = s.len.toNat ∧ txSucceeds 2 s ∧
      goodHeader s.cfg.val 0xAA 15 ∧ goodHeader s.cfg.val 0xA9 14 ∧
      s.link.rx = arriving (replyFrame s.cfg.val 0xAA [] ++ replyFrame s.cfg.val 0xA9 (d ++ [0x5C])) ++ []) ∧
    (let s := block 0 (replyFrame Config.default 0xAA [] ++ replyFrame Config.default 0xA9 [0x5C]) [.ok, .ok] []
     s.resetIn = false ∧ s.fsm = .idle ∧ s.len.toNat ≤ 255 ∧ ([] : List Byte).length = s.len.toNat ∧ txSucceeds 2 s ∧
      goodHeader s.cfg.val 0xAA 15 ∧ goodHeader s.cfg.val 0xA9 14 ∧
      s.link.rx = arriving (replyFrame s.cfg.val 0xAA [] ++ replyFrame s.cfg.val 0xA9 ([] ++ [0x5C])) ++ []) := by
  decide +kernel

/-- ReadRegSetupNotEmpty: a setup reply of one byte, one of as many as are asked for, and one of a byte more. -/
theorem witness_ReadRegSetupNotEmpty :
    (let s := block 7 (replyFrame Config.default 0xAA [0x00]) [] []
     s.resetIn = false ∧ s.fsm = .idle ∧ s.len.toNat ≤ 255 ∧ txSucceeds 1 s ∧ 1 ≤ ([0x00] : List Byte).length ∧
      goodHeader s.cfg.val 0xAA 15 ∧ s.link.rx = arriving (replyFrame s.cfg.val 0xAA [0x00]) ++ [] ∧
      ([0x00] : List Byte).length ≤ s.cfg.val.setupAckLen) ∧
    (let s := block 255 (replyFrame Config.default 0xA9 [0x00, 0x00]) [] []
     s.resetIn = false ∧ s.fsm = .idle ∧ s.len.toNat ≤ 255 ∧ txSucceeds 1 s ∧
      1 ≤ ([0x00, 0x00] : List Byte).length ∧ goodHeader s.cfg.val 0xA9 14 ∧
      s.link.rx = arriving (replyFrame s.cfg.val 0xA9 [0x00, 0x00]) ++ [] ∧
      ([0x00, 0x00] : List Byte).length ≤ s.cfg.val.setupAckLen) ∧
    (let s := block 0 (replyFrame Config.default 0xA9 [0x00, 0x00, 0x00]) [] []
     s.resetIn = false ∧ s.fsm = .idle ∧ s.len.toNat ≤ 255 ∧ txSucceeds 1 s ∧
      1 ≤ ([0x00, 0x00, 0x00] : List Byte).length ∧ goodHeader s.cfg.val 0xA9 14 ∧
      s.link.rx = arriving (replyFrame s.cfg.val 0xA9 [0x00, 0x00, 0x00]) ++ [] ∧
      s.cfg.val.setupAckLen < ([0x00, 0x00, 0x00] : List Byte).length) := by
  decide

/-- WriteRegRequestResult: the longest data string. -/
theorem witness_WriteRegRequestResult :
    let s := block 254 (replyFrame Config.default 0xA9 [0x5A]) [] []
    s.resetIn = false ∧ s.fsm = .idle ∧ s.len.toNat ≤ 254 ∧ txSucceeds 1 s ∧
      ([] : List Byte).length + 1 = s.cfg.val.wrAckLen ∧ goodHeader s.cfg.val 0xA9 14 ∧
      s.link.rx = arriving (replyFrame s.cfg.val 0xA9 [0x5A]) ++ [] := by decide

/-- One attempt's replies, reading back a value. -/
def reading (v : Byte) : SelectReply :=
  { h1 := 0xA9, n1 := 14, h2 := 0xAA, n2 := 15, h3 := 0xA9, n3 := 14, ack := [0x00], value := v, status := 0x00 }

/-- A block that is to select page 4, with the partner's replies to come. -/
def selecting (rs : List SelectReply) (more : List Byte) : State :=
  { block 0 (rs.flatMap (SelectReply.wire Config.default) ++ more) [] [] with page := 4 }

/-- What SelectPageRetryBound asks of the state and the replies. -/
abbrev selectReady (rs : List SelectReply) (s : State) : Prop :=
  s.resetIn = false ∧ s.fsm = .idle ∧ (∀ d ∈ s.link.tx, d = .ok) ∧ (∀ r ∈ rs, r.good s.cfg.val) ∧
    s.link.rx = arriving (rs.flatMap (SelectReply.wire s.cfg.val)) ++ []

/-- SelectPageRetryBound, first clause: the first attempt matches; in the last one of the sub space's budget it does. -/
theorem witness_SelectPageRetryBound_success :
    (let rs := [reading 4]
     selectReady rs (selecting rs []) ∧ 0 < budget Config.default 0 ∧ rs.length = 0 + 1 ∧
      rs[0]? = some (reading 4) ∧ (∀ r ∈ rs.take 0, r.value ≠ (selecting rs []).page) ∧
      (reading 4).value = (selecting rs []).page) ∧
    (let rs := List.replicate 4 (reading 9) ++ [reading 4]
     selectReady rs (selecting rs []) ∧ 4 < budget Config.default 1 ∧ rs.length = 4 + 1 ∧
      rs[4]? = some (reading 4) ∧ (∀ r ∈ rs.take 4, r.value ≠ (selecting rs []).page) ∧
      (reading 4).value = (selecting rs []).page) := by decide +kernel

/-- SelectPageRetryBound, second clause: as many mismatches as the budget of each space. -/
theorem witness_SelectPageRetryBound_failure :
    (let rs := List.replicate 3 (reading 9)
     selectReady rs (selecting rs []) ∧ rs.length = budget Config.default 0 ∧
      ∀ r ∈ rs, r.value ≠ (selecting rs []).page) ∧
    (let rs := List.replicate 5 (reading 9)
     selectReady rs (selecting rs []) ∧ rs.length = budget Config.default 1 ∧
      ∀ r ∈ rs, r.value ≠ (selecting rs []).page) := by decide +kernel

/-- SelectPageSuccess: a select that ends without an error, in either space. -/
theorem witness_SelectPageSuccess :
    let s := selecting [reading 4] []
    s.resetIn = false ∧ s.fsm = .idle ∧
      (exec (.selectPage 0 0) s = .next (after (.selectPage 0 0) s) ∧ (after (.selectPage 0 0) s).err = 0) ∧
      (exec (.selectPage 1 0) s = .next (after (.selectPage 1 0) s) ∧ (after (.selectPage 1 0) s).err = 0) :=
  ⟨rfl, rfl, ⟨rfl, by decide +kernel⟩, ⟨rfl, by decide +kernel⟩⟩

/-- SelectPageInnerError, first clause: a failed transmit and a silent partner in the first two states of an attempt, an
acknowledge that is too short, and a setup reply that is not empty (IoError, IoError, FramingError, ProtocolError). -/
theorem witness_SelectPageInnerError_any :
    (let s := { selecting [] [] with link := { rx := [], arrived := 0, tx := [.fail 0], out := [] } }
     let u := fsmSteps 1 (accept 7 0 0 s)
     s.resetIn = false ∧ s.fsm = .idle ∧ busy u = true ∧ (fsmStep u).err = 1) ∧
    (let s := selecting [] []
     let u := fsmSteps 2 (accept 7 0 0 s)
     s.resetIn = false ∧ s.fsm = .idle ∧ busy u = true ∧ (fsmStep u).err = 1) ∧
    (let s := selecting [] (replyFrame Config.default 0xAA [])
     let u := fsmSteps 2 (accept 7 1 0 s)
     s.resetIn = false ∧ s.fsm = .idle ∧ busy u = true ∧ (fsmStep u).err = 2) ∧
    (let s := selecting [] (replyFrame Config.default 0xA9 [0x00] ++ replyFrame Config.default 0xAA [0x00])
     let u := fsmSteps 4 (accept 7 1 0 s)
     s.resetIn = false ∧ s.fsm = .idle ∧ busy u = true ∧ (fsmStep u).err = 3) := by decide +kernel

/-- SelectPageInnerError, second clause: an empty acknowledge in the first attempt, and in the last of the main
budget. -/
theorem witness_SelectPageInnerError :
    (let s := selecting [] (replyFrame Config.default 0xAA [])
     s.resetIn = false ∧ s.fsm = .idle ∧ (∀ x ∈ s.link.tx, x = .ok) ∧ 0 < budget Config.default 0 ∧
      goodHeader s.cfg.val 0xAA 15 ∧ 0 < s.cfg.val.wrAckLen ∧
      s.link.rx = arriving (replyFrame s.cfg.val 0xAA []) ++ []) ∧
    (let rs := List.replicate 2 (reading 9)
     let s := selecting rs (replyFrame Config.default 0xAA [])
     s.resetIn = false ∧ s.fsm = .idle ∧ (∀ x ∈ s.link.tx, x = .ok) ∧ (∀ r ∈ rs, r.good s.cfg.val) ∧
      (∀ r ∈ rs, r.value ≠ s.page) ∧ rs.length < budget s.cfg.val 0 ∧ goodHeader s.cfg.val 0xAA 15 ∧
      ([] : List Byte).length < s.cfg.val.wrAckLen ∧
      s.link.rx = arriving (rs.flatMap (SelectReply.wire s.cfg.val) ++ replyFrame s.cfg.val 0xAA []) ++ []) := by
  decide +kernel

/-- EveryRequestEnds, RequestIsFsmRun, and AcceptanceClearsAndLatches in IDLE: the state after reset, with the first and
the last operation. -/
theorem witness_EveryRequestEnds :
    State.reset.resetIn = false ∧ State.reset.fsm = .idle ∧ commandOf (.reserved0 0 0) = some (0, 0, 0) ∧
    commandOf (.reservedF 1 15) = some (15, 1, 15) := by decide

/-- CodecUsesNoLink: DEC and the first reserved operation past the others, each with its next state. -/
theorem witness_CodecUsesNoLink :
    (commandOf (.dec 0 0) = some (2, 0, 0) ∧ (2 : BitVec 4).toNat ≤ 2 ∧
      exec (.dec 0 0) State.reset = .next (after (.dec 0 0) State.reset)) ∧
    (commandOf (.reserved8 0 0) = some (8, 0, 0) ∧ 8 ≤ (8 : BitVec 4).toNat ∧
      exec (.reserved8 0 0) State.reset = .next (after (.reserved8 0 0) State.reset)) :=
  ⟨⟨rfl, by decide, rfl⟩, ⟨rfl, by decide, rfl⟩⟩

/-- ReservedOperationsEndInBadReq: operation 0 and operation 8, in the state after reset. -/
theorem witness_ReservedOperationsEndInBadReq :
    State.reset.resetIn = false ∧ State.reset.fsm = .idle ∧
    (commandOf (.reserved0 0 0) = some (0, 0, 0) ∧ (0 : BitVec 4) = 0) ∧
    (commandOf (.reserved8 0 0) = some (8, 0, 0) ∧ 8 ≤ (8 : BitVec 4).toNat) := by decide

/-- LengthOutOfRange: the smallest length out of range of each operation that checks one. -/
theorem witness_LengthOutOfRange :
    (commandOf (.enc 0 0) = some (1, 0, 0) ∧ 512 < (block 513 [] [] []).len.toNat) ∧
    (commandOf (.send 0 0) = some (3, 0, 0) ∧ 512 < (block 513 [] [] []).len.toNat) ∧
    (commandOf (.dec 0 0) = some (2, 0, 0) ∧ 1026 < (block 1027 [] [] []).len.toNat) ∧
    (commandOf (.recv 0 0) = some (4, 0, 0) ∧ (block 513 [] [] []).len.msb = false ∧
      512 < (block 513 [] [] []).len.toNat) ∧
    (commandOf (.readReg 0 0) = some (5, 0, 0) ∧ 255 < (block 256 [] [] []).len.toNat) ∧
    (commandOf (.writeReg 0 0) = some (6, 0, 0) ∧ 254 < (block 255 [] [] []).len.toNat) ∧
    (block 513 [] [] []).resetIn = false ∧ (block 513 [] [] []).fsm = .idle := by decide

/-- RequestsTurnedAway, and AcceptanceClearsAndLatches outside IDLE: a busy state, a FAULTED one, and one with reset
asserted. -/
theorem witness_RequestsTurnedAway :
    commandOf (.enc 0 0) = some (1, 0, 0) ∧
    ((running 5 .rrTrigRx State.reset).resetIn = false ∧ busy (running 5 .rrTrigRx State.reset) = true) ∧
    (faultedBlock.resetIn = false ∧ faultedBlock.fsm = .faulted) ∧ (assertReset 0 State.reset).resetIn = true := by
  decide

/-- ReadMessagesTransmitted: the four states, with the partner's answer ok. -/
theorem witness_ReadMessagesTransmitted :
    (txSucceeds 1 (running 5 .rrSetupTx State.reset) ∧ (running 5 .rrSetupTx State.reset).fsm = .rrSetupTx) ∧
    (txSucceeds 1 (running 7 .psRdSetupTx State.reset) ∧ (running 7 .psRdSetupTx State.reset).fsm = .psRdSetupTx) ∧
    (txSucceeds 1 (running 5 .rrTrigTx State.reset) ∧ (running 5 .rrTrigTx State.reset).fsm = .rrTrigTx) ∧
    (txSucceeds 1 (running 7 .psRdTrigTx State.reset) ∧ (running 7 .psRdTrigTx State.reset).fsm = .psRdTrigTx) := by
  decide

/-- WriteMessageTransmitted: the two states. -/
theorem witness_WriteMessageTransmitted :
    (txSucceeds 1 (running 6 .wrTx State.reset) ∧ (running 6 .wrTx State.reset).fsm = .wrTx) ∧
    (txSucceeds 1 (running 7 .psWrTx State.reset) ∧ (running 7 .psWrTx State.reset).fsm = .psWrTx) := by decide

/-- SendRowsTransmitted: SEND_TX. -/
theorem witness_SendRowsTransmitted :
    txSucceeds 1 (running 3 .sendTx State.reset) ∧ (running 3 .sendTx State.reset).fsm = .sendTx := by decide

/-- TransmitFailureFaults: the trigger of a read whose transmit fails at once. -/
theorem witness_TransmitFailureFaults :
    let s := running 5 .rrTrigTx (block 7 [] [.fail 0] [])
    s.link.tx.head? = some (.fail 0) ∧ carried s = some (.mRrt 7) ∧ wireOf s.cfg.val (.mRrt 7) ≠ [] := by decide

/-- SetupAcknowledgeReceived: the two states. -/
theorem witness_SetupAcknowledgeReceived :
    (let s := running 5 .rrSetupRx (block 0 (replyFrame Config.default 0xAA []) [] [])
     s.fsm = .rrSetupRx ∧ goodHeader s.cfg.val 0xAA 15 ∧
      s.link.rx = arriving (replyFrame s.cfg.val 0xAA []) ++ []) ∧
    (let s := running 7 .psRdSetupRx (block 0 (replyFrame Config.default 0xAA []) [] [])
     s.fsm = .psRdSetupRx ∧ goodHeader s.cfg.val 0xAA 15 ∧
      s.link.rx = arriving (replyFrame s.cfg.val 0xAA []) ++ []) := by decide

/-- TriggerReplyReceived: the longest payload in one state, no payload in the other. -/
theorem witness_TriggerReplyReceived :
    (let d : List Byte := List.replicate 255 0
     let s := running 5 .rrTrigRx (block 0 (replyFrame Config.default 0xA9 (d ++ [0x5C])) [] [])
     s.fsm = .rrTrigRx ∧ goodHeader s.cfg.val 0xA9 14 ∧ d.length = (255 : Byte).toNat ∧
      s.link.rx = arriving (replyFrame s.cfg.val 0xA9 (d ++ [0x5C])) ++ []) ∧
    (let s := running 7 .psRdTrigRx (block 0 (replyFrame Config.default 0xA9 [0x5C]) [] [])
     s.fsm = .psRdTrigRx ∧ goodHeader s.cfg.val 0xA9 14 ∧ ([] : List Byte).length = (0 : Byte).toNat ∧
      s.link.rx = arriving (replyFrame s.cfg.val 0xA9 ([] ++ [0x5C])) ++ []) := by decide +kernel

/-- WriteAcknowledgeReceived: the two states. -/
theorem witness_WriteAcknowledgeReceived :
    (let s := running 6 .wrRx (block 0 (replyFrame Config.default 0xA9 [0x5A]) [] [])
     s.fsm = .wrRx ∧ goodHeader s.cfg.val 0xA9 14 ∧ ([] : List Byte).length + 1 = s.cfg.val.wrAckLen ∧
      s.link.rx = arriving (replyFrame s.cfg.val 0xA9 [0x5A]) ++ []) ∧
    (let s := running 7 .psWrRx (block 0 (replyFrame Config.default 0xA9 [0x5A]) [] [])
     s.fsm = .psWrRx ∧ goodHeader s.cfg.val 0xA9 14 ∧ ([] : List Byte).length + 1 = s.cfg.val.wrAckLen ∧
      s.link.rx = arriving (replyFrame s.cfg.val 0xA9 [0x5A]) ++ []) := by decide

/-- RowsOutOfPlaceDoNothing: IDLE carries no row. -/
theorem witness_RowsOutOfPlaceDoNothing :
    State.reset.fsm ≠ .rrSetupTx ∧ State.reset.fsm ≠ .psRdSetupTx ∧ State.reset.fsm ≠ .rrTrigTx ∧
    State.reset.fsm ≠ .psRdTrigTx ∧ State.reset.fsm ≠ .wrTx ∧ State.reset.fsm ≠ .psWrTx ∧
    State.reset.fsm ≠ .rrSetupRx ∧ State.reset.fsm ≠ .psRdSetupRx ∧ State.reset.fsm ≠ .rrTrigRx ∧
    State.reset.fsm ≠ .psRdTrigRx ∧ State.reset.fsm ≠ .wrRx ∧ State.reset.fsm ≠ .psWrRx ∧
    State.reset.fsm ≠ .sendTx := by decide

/-- A request of an operation, accepted and past its argument check, in a state of its own. -/
theorem invariant_of_running (op : BitVec 4) (x : FsmState) (len : BitVec 16) (tx : List TxDraw) (rx : List Byte)
    (h : ∀ o, requestOf x = some o → op = o ∧ lenInRange o len = true) (hx : x ≠ .faulted) :
    BlockInv (running op x (block len rx tx [])) where
  memory := rfl
  request := h
  attempts := Nat.zero_le _
  inProgress _ := ⟨rfl, rfl, rfl⟩
  errorCode := .inl ⟨rfl, rfl⟩
  faulted := ⟨fun e => absurd e hx, fun e => absurd (show (0 : BitVec 4) = 1 from e) (by decide)⟩
  errorEnds e := absurd rfl e
  lengths := ⟨Nat.zero_le _, Nat.zero_le _⟩
  arrived := Nat.zero_le _
  inReset e := absurd (show false = true from e) (by decide)

/-- FsmErrorEntry: a reserved operation in CHECK_ARGS, a DEC of no bytes, a failed SEND, a silent partner of a RECV, and
a failed trigger of a read. -/
theorem witness_FsmErrorEntry :
    (let s := running 0 .checkArgs (block 0 [] [] [])
     BlockInv s ∧ busy s = true ∧ (fsmStep s).err = 5) ∧
    (let s := running 2 .decRun (block 0 [] [] [])
     BlockInv s ∧ busy s = true ∧ (fsmStep s).err = 2) ∧
    (let s := running 3 .sendTx (block 0 [] [.fail 0] [])
     BlockInv s ∧ busy s = true ∧ isRxState s.fsm = false ∧ s.fsm ≠ .decRun ∧ (fsmStep s).err = 1) ∧
    (let s := running 4 .recvRx (block 0 [] [] [])
     BlockInv s ∧ busy s = true ∧ (fsmStep s).err = 1) ∧
    (let s := running 5 .rrTrigTx (block 255 [] [.fail 0] [])
     BlockInv s ∧ busy s = true ∧ (fsmStep s).err = 1) :=
  ⟨⟨invariant_of_running 0 .checkArgs 0 [] [] (by decide) (by decide), by decide, by decide⟩,
    ⟨invariant_of_running 2 .decRun 0 [] [] (by decide) (by decide), by decide, by decide⟩,
    ⟨invariant_of_running 3 .sendTx 0 [.fail 0] [] (by decide) (by decide), by decide, by decide, by decide, by decide⟩,
    ⟨invariant_of_running 4 .recvRx 0 [] [] (by decide) (by decide), by decide, by decide⟩,
    ⟨invariant_of_running 5 .rrTrigTx 255 [.fail 0] [] (by decide) (by decide), by decide, by decide⟩⟩

/-- ErrorsInvalidateTracking: an IoError of SEND, a FramingError of DEC, and BADREQ of RECV. -/
theorem witness_ErrorsInvalidateTracking :
    (let s := tracked (block 0 [] [.fail 0] [])
     commandOf (.send 0 0) = some (3, 0, 0) ∧ s.resetIn = false ∧ s.fsm = .idle ∧
      exec (.send 0 0) s = .next (after (.send 0 0) s) ∧ (after (.send 0 0) s).err = 1) ∧
    (let s := tracked (block 0 [] [] [])
     commandOf (.dec 0 0) = some (2, 0, 0) ∧ s.resetIn = false ∧ s.fsm = .idle ∧
      exec (.dec 0 0) s = .next (after (.dec 0 0) s) ∧ (after (.dec 0 0) s).err = 2) ∧
    (let s := tracked (block 513 [] [] [])
     commandOf (.recv 0 0) = some (4, 0, 0) ∧ s.resetIn = false ∧ s.fsm = .idle ∧
      exec (.recv 0 0) s = .next (after (.recv 0 0) s) ∧ (after (.recv 0 0) s).err = 5) :=
  ⟨⟨rfl, rfl, rfl, rfl, by decide⟩, ⟨rfl, rfl, rfl, rfl, by decide⟩, ⟨rfl, rfl, rfl, rfl, by decide⟩⟩

/-- FaultedUntilReset: a FAULTED block to which the host writes `CMD`. -/
theorem witness_FaultedUntilReset :
    let s := { faultedBlock with sched := [hostWr 0x000 0x00000005] }
    s.fsm = .faulted ∧ s.resetIn = false ∧ step s = .next (stepped s) ∧
      ∀ j, s.sched.head? ≠ some (.assertReset j) := by
  refine ⟨rfl, rfl, rfl, ?_⟩
  intro j
  simp [hostWr]

/-- OperandsStable, and RequestMemoryFrame's next states: requests of every operation, at their longest lengths. -/
theorem witness_OperandsStable :
    exec (.enc 0 0) (block 512 [] [] []) = .next (after (.enc 0 0) (block 512 [] [] [])) ∧
    exec (.dec 0 0) (block 1026 [] [] []) = .next (after (.dec 0 0) (block 1026 [] [] [])) ∧
    exec (.send 0 0) (block 512 [] [] []) = .next (after (.send 0 0) (block 512 [] [] [])) ∧
    exec (.recv 0 0) (block 512 [] [] []) = .next (after (.recv 0 0) (block 512 [] [] [])) ∧
    exec (.readReg 0 0) (block 255 [] [] []) = .next (after (.readReg 0 0) (block 255 [] [] [])) ∧
    exec (.writeReg 0 0) (block 254 [] [] []) = .next (after (.writeReg 0 0) (block 254 [] [] [])) ∧
    exec (.selectPage 0 0) (block 0 [] [] []) = .next (after (.selectPage 0 0) (block 0 [] [] [])) ∧
    exec (.reservedF 0 0) State.reset = .next (after (.reservedF 0 0) State.reset) :=
  ⟨rfl, rfl, rfl, rfl, rfl, rfl, rfl, rfl⟩

/-- RequestMemoryFrame: the first and the last byte its clauses leave, around the windows of the longest lengths. -/
theorem witness_RequestMemoryFrame :
    (let n := (block 512 [] [] []).len.toNat
     0x7FF < 0x800 ∧ 0x800 + (2 * n + 2) ≤ 0xC02) ∧
    (let n := (block 1026 [] [] []).len.toNat
     0x5FF < 0x600 ∧ 0x600 + (n - 2) / 2 ≤ 0x800) ∧
    (0x600 + (recvLength (block 512 [] [] [])).1 ≤ 0x800 ∧
      0x800 + wireWindow (recvLength (block 512 [] [] [])).1 ≤ 0xC02) ∧
    (0x600 + ((block 255 [] [] []).len.toNat + 1) ≤ 0x700 ∧
      0x800 + max (wireWindow Config.default.setupAckLen) (wireWindow ((block 255 [] [] []).len.toNat + 1)) ≤ 0xA02) ∧
    0x800 + wireWindow Config.default.wrAckLen ≤ 0x804 ∧
    0x800 + max (max (wireWindow Config.default.wrAckLen) (wireWindow Config.default.setupAckLen)) (wireWindow 2)
      ≤ 0x806 := by decide

/-- TrackedPagesDecideNothing: two states that differ in a tracked page. -/
theorem witness_TrackedPagesDecideNothing :
    sameButTracking State.reset (tracked State.reset) ∧ State.reset ≠ tracked State.reset := ⟨rfl, by decide⟩

/-- ConfigurationNeverChanges, OutboundStreamGrows: a step of the FSM that transmits. -/
theorem witness_OutboundStreamGrows :
    let s := running 5 .rrTrigTx State.reset
    step s = .next (stepped s) ∧ (stepped s).link.out ≠ [] := ⟨rfl, by decide⟩

/-- OverrunIsSticky: a block with `OVERRUN` set, about to take an FSM step. -/
theorem witness_OverrunIsSticky :
    let s := { State.reset with overrun := true, sched := [.fsm] }
    s.overrun = true ∧ step s = .next (stepped s) ∧ (∀ j, s.sched.head? ≠ some (.assertReset j)) ∧
      ¬ (s.sched.head? = some .releaseReset ∧ s.resetIn = true) := by
  refine ⟨rfl, rfl, ?_, ?_⟩
  · intro j; simp
  · simp

/-- HostWritesByOffset: a busy and an idle block, with the ends of every range of offsets. -/
theorem witness_HostWritesByOffset :
    ((running 5 .rrTrigRx State.reset).resetIn = false ∧ busy (running 5 .rrTrigRx State.reset) = true) ∧
    (State.reset.resetIn = false ∧ busy State.reset = false) ∧
    (∀ a ∈ [0x400, 0x5FC, 0x800, 0xC00], (0x400 ≤ a ∧ a < 0x600) ∨ (0x800 ≤ a ∧ a < 0xC04)) ∧
    (∀ a ∈ [0x014, 0x3FC, 0x600, 0x7FC, 0xC04, 0xFFC],
      (0x014 ≤ a ∧ a < 0x400) ∨ (0x600 ≤ a ∧ a < 0x800) ∨ 0xC04 ≤ a) := by decide

/-- BufferWordsReadBack: the ends of both buffers, and the last word of `WIREBUF`. -/
theorem witness_BufferWordsReadBack :
    State.reset.resetIn = false ∧ busy State.reset = false ∧ State.reset.mem.wf = true ∧
    (∀ a ∈ [0x400, 0x5FC, 0x800, 0xBFC],
      a % 4 = 0 ∧ ((0x400 ≤ a ∧ a < 0x600) ∨ (0x800 ≤ a ∧ a < 0xC00))) ∧ 0xC00 % 4 = 0 := by decide

/-- HostReadsArePure: an idle block; a busy one at the ends of the ranges that stay exact. -/
theorem witness_HostReadsArePure :
    (State.reset.resetIn = false ∧ busy State.reset = false) ∧
    (running 5 .rrTrigRx State.reset).resetIn = false ∧
    (∀ a ∈ [0x000, 0x010, 0x020, 0x024, 0x02C, 0x5FC, 0xC04, 0xFFC],
      a < 0x014 ∨ (0x020 ≤ a ∧ a < 0x028) ∨ (0x02C ≤ a ∧ a < 0x600) ∨ 0xC04 ≤ a) := by decide

/-- ReservedBitsReadZero: a block with reset asserted, not BUSY, its memory canonical, and the ends of the reserved
ranges. -/
theorem witness_ReservedBitsReadZero :
    (let s := assertReset 0 faultedBlock
     s.resetIn = true ∧ busy s = false ∧ s.mem.wf = true) ∧
    ∀ a ∈ [0x02C, 0x03C, 0x050, 0x3FC, 0xC04, 0xFFC],
      (0x02C ≤ a ∧ a < 0x040) ∨ (0x050 ≤ a ∧ a < 0x400) ∨ 0xC04 ≤ a := by decide

/-- CipherWindowAndReserved: the first and the last symbol, and the ends of the reserved ranges. -/
theorem witness_CipherWindowAndReserved :
    0 < 16 ∧ 15 < 16 ∧
    ∀ a ∈ [0x02C, 0x03C, 0x050, 0x3FC, 0xC04, 0xFFC],
      (0x02C ≤ a ∧ a < 0x040) ∨ (0x050 ≤ a ∧ a < 0x400) ∨ 0xC04 ≤ a := by decide

/-- ImproperAccessesRefused: a width and an offset that are refused, and the first and last proper offset. -/
theorem witness_ImproperAccessesRefused :
    2 ≠ 4 ∧ 0x002 % 4 ≠ 0 ∧ (0x000 % 4 = 0 ∧ 0x000 < 0x1000) ∧ (0xFFC % 4 = 0 ∧ 0xFFC < 0x1000) := by decide

/-- ResetLeaves: a busy transmitting block that is reset with three bytes of its frame out. -/
theorem witness_ResetLeaves :
    let s := running 5 .rrTrigTx (block 7 [0xA9, 0x55] [] [])
    releaseReset (assertReset 3 s) = releaseReset (assertReset 3 s) ∧
      (releaseReset (assertReset 3 s)).link.out = [0x54, 0x95, 0x55] := ⟨rfl, by decide⟩

/-- StepRunsTheInstruction: a host request; an FSM turn, given and by default, in a state that carries a row and in one
that carries none; and a turn of every other kind. -/
theorem witness_StepRunsTheInstruction :
    (let s := { State.reset with sched := [.request 0x00000017] }
     s.sched = .request 0x00000017 :: [] ∧ decode s.cfg.val (.command 0x00000017) = .ok (.selectPage 1 0)) ∧
    (let s := { running 5 .rrTrigTx (block 7 [] [] []) with sched := [.fsm] }
     s.sched = .fsm :: [] ∧ carried s = some (.mRrt 7)) ∧
    (let s := { running 2 .decRun State.reset with sched := [.fsm] }
     s.sched = .fsm :: [] ∧ carried s = none) ∧
    (let s := running 5 .rrTrigTx (block 7 [] [] [])
     s.sched = [] ∧ carried s = some (.mRrt 7)) ∧
    (State.reset.sched = [] ∧ carried State.reset = none) ∧
    ∀ t ∈ [hostRd 0xFFC, hostWr 0x000 0x00000001, .partner (.supply [.timeout]), .partner (.arrive 1),
      .partner (.answerTx .ok), .assertReset 0, .releaseReset],
      (State.reset.withTurns [t, .fsm]).sched = t :: [.fsm] := by decide

/-- FsmTurnIsStateAction: the longest M-WR, in WR_TX. -/
theorem witness_FsmTurnIsStateAction :
    let s := running 6 .wrTx (block 254 [] [] [])
    BlockInv s ∧ carried s = some (.mWr 0 (bytesAt s 0x400 254)) :=
  ⟨invariant_of_running 6 .wrTx 254 [] [] (by decide) (by decide), rfl⟩

/-- StepKeepsInvariant: a block that has the invariant and answers a next state. -/
theorem witness_StepKeepsInvariant :
    let s := running 5 .rrTrigTx (block 255 [] [] [])
    BlockInv s ∧ step s = .next (stepped s) :=
  ⟨invariant_of_running 5 .rrTrigTx 255 [] [] (by decide) (by decide), rfl⟩

end Sys2Proof.Tests
end

section
/-! Scope (00_scope.md): a step dispatches on the turn at the head of the list. -/
namespace Sys2Proof.Machine

open Sys2Proof

/-- With a turn listed, the step is that turn, on the state with the turn taken off (R6, R311). -/
theorem step_of_sched_cons {s : State} {t : Turn} {rest : List Turn} (h : s.sched = t :: rest) :
    step s = takeTurn t { s with sched := rest } := by
  rw [step, h]

/-- With no turn listed, the step is the FSM's turn (R6). -/
theorem step_of_sched_nil {s : State} (h : s.sched = []) : step s = fsmTurn s := by
  rw [step, h]

/-- The row a state carries is read off the block, not off the list of turns. -/
@[simp] theorem carried_withSched (s : State) (l : List Turn) : carried { s with sched := l } = carried s := rfl

/-- The FSM's turn runs the row the state carries (R111). -/
theorem fsmTurn_of_carried {s : State} {i : Instr} (h : carried s = some i) : fsmTurn s = exec i s := by
  rw [fsmTurn, h]

/-- In a state without a row, the FSM's turn is the state's own action (R111). -/
theorem fsmTurn_of_carried_none {s : State} (h : carried s = none) : fsmTurn s = .next (fsmStep s) := by
  rw [fsmTurn, h]

/-- A host command word always decodes, and to its own instruction (R80, R90). -/
theorem decode_command_eq_ok_iff {c : Config} {w : Word} {i : Instr} :
    decode c (.command w) = .ok i ↔ decodeCommand w = i := by
  rw [decode, Except.ok.injEq]

/-- Settles O57: one clause per kind of turn, each the turn's own arm of `takeTurn`. -/
theorem stepRunsTheInstruction : Obligations.StepRunsTheInstruction := by
  intro s rest
  refine ⟨?request, ?fsm, ?noTurn, ?host, ?supply, ?arrive, ?answerTx, ?assertReset, ?releaseReset⟩
  case request =>
    intro w i hsched hdecode
    obtain rfl := decode_command_eq_ok_iff.mp hdecode
    exact step_of_sched_cons hsched
  case fsm =>
    intro hsched
    have hturn : step s = fsmTurn { s with sched := rest } := step_of_sched_cons hsched
    exact ⟨fun i hi => hturn.trans (fsmTurn_of_carried (by simpa using hi)),
      fun hnone => hturn.trans (fsmTurn_of_carried_none (by simpa using hnone))⟩
  case noTurn =>
    intro hsched
    have hturn : step s = fsmTurn s := step_of_sched_nil hsched
    exact ⟨fun i hi => hturn.trans (fsmTurn_of_carried hi),
      fun hnone => hturn.trans (fsmTurn_of_carried_none hnone)⟩
  case host => exact fun access hsched => step_of_sched_cons hsched
  case supply => exact fun answers hsched => step_of_sched_cons hsched
  case arrive => exact fun count hsched => step_of_sched_cons hsched
  case answerTx => exact fun answer hsched => step_of_sched_cons hsched
  case assertReset => exact fun sent hsched => step_of_sched_cons hsched
  case releaseReset => exact fun hsched => step_of_sched_cons hsched

end Sys2Proof.Machine
end

section
/-! The block's invariant, part by part: what every update of a running request keeps of it, then the FSM's actions,
the host's, the partner's and the reset's. -/
namespace Sys2Proof.Machine

open Sys2Proof

/-! ### What the invariant says of a running request -/

/-- A request is in progress in every state but IDLE and FAULTED (R22). -/
theorem busy_eq_true_iff {s : State} : busy s = true ↔ s.fsm ≠ .idle ∧ s.fsm ≠ .faulted := by
  simp [busy]

theorem busy_eq_false_iff {s : State} : busy s = false ↔ s.fsm = .idle ∨ s.fsm = .faulted := by
  rw [← Bool.not_eq_true, busy_eq_true_iff]
  tauto

theorem busy_congr {s t : State} (h : t.fsm = s.fsm) : busy t = busy s := by
  rw [busy, h, busy]

/-- With no request in progress the state belongs to no operation (R21). -/
theorem requestOf_ne_some_of_not_busy {s : State} (h : busy s = false) (op : BitVec 4) :
    requestOf s.fsm ≠ some op := by
  rcases busy_eq_false_iff.mp h with hf | hf <;> simp [requestOf, hf]

theorem busy_of_requestOf {s : State} {op : BitVec 4} (h : requestOf s.fsm = some op) : busy s = true := by
  by_contra hb
  exact requestOf_ne_some_of_not_busy (by simpa using hb) op h

/-- Going on to the follower stays in the request (R210, R217, R242). -/
theorem requestOf_followState (x : FsmState) : requestOf (followState x) = requestOf x := by
  cases x <;> rfl

/-- While a request is in progress, reset is not asserted (R340). -/
theorem BlockInv.not_inReset {s : State} (h : BlockInv s) (hb : busy s = true) : s.resetIn = false := by
  by_contra hr
  exact (busy_eq_true_iff.mp hb).1 (h.inReset (by simpa using hr))

/-! ### The moves of the FSM that keep the invariant -/

/-- Into a state of the latched operation, its length in range (R112). -/
theorem BlockInv.goto {s : State} (h : BlockInv s) (hb : busy s = true) {x : FsmState}
    (hx : requestOf x = some s.opl) (hl : lenInRange s.opl s.len = true) : BlockInv (goto x s) := by
  obtain ⟨hd, he, hc⟩ := h.inProgress hb
  have hbx : busy (Machine.goto x s) = true := busy_of_requestOf (s := Machine.goto x s) hx
  obtain ⟨hxi, hxf⟩ := busy_eq_true_iff.mp hbx
  exact { h with
    request := fun op hop => ⟨Option.some.inj (hx.symm.trans hop), Option.some.inj (hx.symm.trans hop) ▸ hl⟩
    inProgress := fun _ => ⟨hd, he, hc⟩
    faulted := by
      refine ⟨fun hf => absurd hf hxf, fun hio => ?_⟩
      rw [goto_err, he] at hio
      exact absurd hio (by decide)
    inReset := fun hr => absurd hr (by simp [h.not_inReset hb]) }

/-- On to the follower of a state of some request. -/
theorem BlockInv.advance {s : State} (h : BlockInv s) {op : BitVec 4} (hop : requestOf s.fsm = some op) :
    BlockInv (advance s) := by
  obtain ⟨rfl, hl⟩ := h.request op hop
  exact h.goto (busy_of_requestOf hop) ((requestOf_followState _).trans hop) hl

/-- Completing a request (R116). -/
theorem BlockInv.complete {s : State} (h : BlockInv s) (hb : busy s = true) : BlockInv (complete s) := by
  obtain ⟨-, he, hc⟩ := h.inProgress hb
  exact { h with
    request := fun op hop => by simp [requestOf] at hop
    inProgress := fun hi => by simp [busy] at hi
    faulted := by simp [he, errCode]
    errorEnds := fun hne => absurd he hne
    inReset := fun _ => rfl }

/-- Error entry (R302 to R304), which needs no request in progress. -/
theorem BlockInv.raise {s : State} (h : BlockInv s) (hr : s.resetIn = false) (e : Cause) :
    BlockInv (raise e s) where
  memory := h.memory
  request op hop := by
    rw [raise_fsm] at hop
    split at hop <;> simp [requestOf] at hop
  attempts := h.attempts
  inProgress hb := by
    rw [busy_eq_true_iff, raise_fsm] at hb
    split at hb <;> simp at hb
  errorCode := .inr ⟨e, rfl, rfl⟩
  faulted := by cases e <;> simp [classOf, errCode]
  errorEnds _ := ⟨rfl, rfl⟩
  lengths := ⟨by simp, h.lengths.2⟩
  arrived := h.arrived
  inReset hi := by simp [hr] at hi

/-- While a request is in progress the result length may be set, to at most `WIRE_CAP` (R27). -/
theorem BlockInv.withRlen {s : State} (h : BlockInv s) (hb : busy s = true) {n : Nat} (hn : n ≤ wireCap) :
    BlockInv { s with rlen := BitVec.ofNat 11 n } :=
  { h with
    errorEnds := fun hne => absurd (h.inProgress hb).2.1 hne
    lengths := ⟨(BitVec.toNat_ofNat n 11).le.trans ((Nat.mod_le _ _).trans hn), h.lengths.2⟩ }

theorem BlockInv.withWlen {s : State} (h : BlockInv s) {n : Nat} (hn : n ≤ wireCap) :
    BlockInv { s with wlen := BitVec.ofNat 11 n } :=
  { h with lengths := ⟨h.lengths.1, (BitVec.toNat_ofNat n 11).le.trans ((Nat.mod_le _ _).trans hn)⟩ }

/-- The attempt counter may be set within the budget (R243). -/
theorem BlockInv.withAttempt {s : State} (h : BlockInv s) {k : BitVec 3}
    (hk : k.toNat ≤ budget s.cfg.val s.spacel) : BlockInv { s with attempt := k } :=
  { h with attempts := hk }

theorem BlockInv.putBytes {s : State} (h : BlockInv s) (a : Nat) (bs : List Byte) : BlockInv (putBytes a bs s) :=
  { h with memory := putBytes_mem_wf h.memory a bs }

theorem BlockInv.recordHeader {s : State} (h : BlockInv s) (w : List Byte) : BlockInv (recordHeader w s) :=
  { h with }

theorem BlockInv.clearTracking {s : State} (h : BlockInv s) : BlockInv (clearTracking s) := { h with }

theorem BlockInv.clearSpace {s : State} (h : BlockInv s) (sp : BitVec 1) : BlockInv (clearSpace sp s) :=
  { h with }

theorem BlockInv.setSpace {s : State} (h : BlockInv s) (sp : BitVec 1) (p : Byte) : BlockInv (setSpace sp p s) :=
  { h with }

theorem BlockInv.clearForWrite {s : State} (h : BlockInv s) (r : Byte) : BlockInv (clearForWrite r s) :=
  { h with }

/-! ### Transmitting and receiving -/

/-- A TX state's action keeps the invariant where going on does; the frame itself changes only the scratch and the
link's outbound side. -/
theorem BlockInv.transmit {s : State} (h : BlockInv s) (hb : busy s = true) {fcmd : Nibble} {d : List Byte}
    {next : State → State} (hnext : ∀ t, BlockInv t → t.fsm = s.fsm → BlockInv (next t)) :
    BlockInv (transmit fcmd d next s) := by
  obtain ⟨l, hrx, harr, -, heq | heq⟩ := transmit_cases fcmd d next s <;> rw [heq]
  all_goals
    have ht : BlockInv { s with txf := encodeFrame s.cfg.val fcmd d, link := l } :=
      { h with arrived := by rw [hrx, harr]; exact h.arrived }
  · exact hnext _ ht rfl
  · exact ht.raise (h.not_inReset hb) .txFail

/-- What the reception of at most `wireWindow l` wire bytes leaves, for a receive that fits `WIREBUF` (R182). -/
theorem BlockInv.afterCollect {s : State} (h : BlockInv s) {l : Nat} (hl : l ≤ rxCap) :
    BlockInv (afterCollect (collect s.cfg.val.terminator (wireWindow l) 0 s.link.rx) s) := by
  have hroom := (collect_spec s.cfg.val.terminator (wireWindow l) 0 s.link.rx).1
  have hfit : wireWindow l ≤ wireCap := by simp only [wireWindow, wireCap, rxCap] at *; omega
  have hput := (h.putBytes wireBase (collect s.cfg.val.terminator (wireWindow l) 0 s.link.rx).1).withWlen
    (hroom.trans hfit)
  have harr := h.arrived
  exact { hput with arrived := by simp only [Machine.afterCollect]; omega }

/-- A wire sequence that decodes has a header, a terminator and two symbols for each logical byte (R155). -/
theorem decodeFrame_length {c : Config} {w out : List Byte} {hdr : Nibble}
    (hd : decodeFrame c w = .ok (hdr, out)) : w.length = 2 * out.length + 2 := by
  obtain ⟨e, he, -⟩ | ⟨x, o, ho, h2, -, -, -, -, hp⟩ := decodeFrame_cases c w
  · rw [he] at hd; cases hd
  · rw [ho] at hd
    cases hd
    have hlen := decodePairs_length c _ _ hp
    rw [frameData_length] at hlen
    omega

/-- An RX state's action keeps the invariant where going on with the bytes received does. -/
theorem BlockInv.receive {s : State} (h : BlockInv s) (hb : busy s = true) {l : Nat} (hl : l ≤ rxCap)
    {mode : RxMode} {next : List Byte → State → State}
    (hnext : ∀ out t, out.length ≤ l → BlockInv t → t.fsm = s.fsm → BlockInv (next out t)) :
    BlockInv (receive l mode next s) := by
  have hcol := h.afterCollect hl
  have hr := h.not_inReset hb
  obtain ⟨-, heq⟩ | ⟨-, e, heq, -⟩ | ⟨-, hdr, out, hd, -, heq⟩ := receive_cases l mode next s <;> rw [heq]
  case inl => exact hcol.raise hr .rxTimeout
  case inr.inl => exact (hcol.recordHeader _).raise hr e
  case inr.inr =>
    have hout : out.length ≤ l := by
      have hroom := (collect_spec s.cfg.val.terminator (wireWindow l) 0 s.link.rx).1
      rw [decodeFrame_length hd, wireWindow] at hroom
      omega
    exact hnext out _ hout (hcol.recordHeader _) rfl

end Sys2Proof.Machine
end

section
/-! The FSM's step keeps the invariant, state by state. -/
namespace Sys2Proof.Machine

open Sys2Proof

/-! ### Lengths -/

/-- The ranges of R112 for the operations whose payload the block reads or stores. -/
theorem lenInRange_enc_iff {n : BitVec 16} : lenInRange 1 n = true ↔ n.toNat ≤ txCap := decide_eq_true_iff
theorem lenInRange_dec_iff {n : BitVec 16} : lenInRange 2 n = true ↔ n.toNat ≤ wireCap := decide_eq_true_iff
theorem lenInRange_send_iff {n : BitVec 16} : lenInRange 3 n = true ↔ n.toNat ≤ txCap := decide_eq_true_iff
theorem lenInRange_writeReg_iff {n : BitVec 16} : lenInRange 6 n = true ↔ n.toNat ≤ mWrMax :=
  decide_eq_true_iff

/-- For RECV a negative length is in range (R188). -/
theorem lenInRange_recv_iff {n : BitVec 16} : lenInRange 4 n = true ↔ n.msb = true ∨ n.toNat ≤ rxCap := by
  rw [show lenInRange 4 n = (n.msb || decide (n.toNat ≤ rxCap)) from rfl, Bool.or_eq_true, decide_eq_true_iff]

/-- The lengths of a parameter record fit `RXBUF` (R8). -/
theorem recvDefaultLen_le (p : Params) : p.val.recvDefaultLen.toNat ≤ rxCap := by
  obtain ⟨-, -, h, -⟩ := Params.checks p
  exact h

theorem setupAckLen_le (p : Params) : p.val.setupAckLen ≤ rxCap := by
  obtain ⟨-, -, -, -, -, -, -, -, h, -⟩ := Params.checks p
  exact h

theorem wrAckLen_le (p : Params) : p.val.wrAckLen ≤ rxCap := by
  obtain ⟨-, -, -, -, -, -, -, -, -, -, h⟩ := Params.checks p
  exact h

/-- A receive of RECV fits `RXBUF` (R8, R188). -/
theorem recvLength_le {s : State} (h : lenInRange 4 s.len = true) : (recvLength s).1 ≤ rxCap := by
  unfold recvLength
  split
  · exact recvDefaultLen_le s.cfg
  · exact (lenInRange_recv_iff.mp h).resolve_left ‹_›

/-- A frame has a header, two symbols for each logical byte and a terminator (R150). -/
theorem encodeFrame_length (c : Config) (fcmd : Nibble) (d : List Byte) :
    (encodeFrame c fcmd d).length = 2 * d.length + 2 := by
  rw [encodeFrame, List.length_cons, List.length_append, flatMap_encPair_length, List.length_singleton]

/-! ### The actions of the states -/

/-- CHECK_ARGS (R112): the request goes on only with its length in range. -/
theorem BlockInv.checkArgs {s : State} (h : BlockInv s) (hb : busy s = true) : BlockInv (checkArgs s) := by
  have hr := h.not_inReset hb
  obtain ⟨-, hl, x, hx, heq⟩ | ⟨h7, heq⟩ | ⟨-, heq⟩ | ⟨-, heq⟩ := checkArgs_spec s <;> rw [heq]
  · exact h.goto hb hx hl
  · have hone : BlockInv { s with attempt := 1 } := h.withAttempt (budget_bounds s.cfg s.spacel).1
    exact hone.goto hb (by simp [requestOf, h7]) (by simp [lenInRange, h7])
  · exact h.raise hr .lenRange
  · exact h.raise hr .reservedOp

/-- ENC_RUN (R162): the frame of at most `TX_CAP` bytes fits `WIREBUF`. -/
theorem BlockInv.encRun {s : State} (h : BlockInv s) (hs : s.fsm = .encRun) : BlockInv (encRun s) := by
  obtain ⟨-, hlen⟩ := h.request 1 (by simp [requestOf, hs])
  have hb : busy s = true := by simp [busy, hs]
  have hfit : (encodeFrame s.cfg.val s.fcmdl (txPayload s)).length ≤ wireCap := by
    have htx := lenInRange_enc_iff.mp hlen
    rw [encodeFrame_length, txPayload, bytesAt_length]
    simp only [txCap, wireCap] at *
    omega
  have hput := h.putBytes wireBase (encodeFrame s.cfg.val s.fcmdl (txPayload s))
  exact ((hput.withWlen hfit).withRlen hb hfit).complete hb

/-- DEC_RUN (R163). -/
theorem BlockInv.decRun {s : State} (h : BlockInv s) (hs : s.fsm = .decRun) : BlockInv (decRun s) := by
  obtain ⟨-, hlen⟩ := h.request 2 (by simp [requestOf, hs])
  have hb : busy s = true := by simp [busy, hs]
  obtain ⟨hdr, out, hd, heq⟩ | ⟨e, -, heq⟩ := decRun_spec s <;> rw [heq]
  · have hout := decodeFrame_length hd
    have hwire := lenInRange_dec_iff.mp hlen
    rw [wirePayload, bytesAt_length] at hout
    exact (((h.recordHeader _).putBytes rxBase out).withRlen hb (by omega)).complete hb
  · exact (h.recordHeader _).raise (h.not_inReset hb) e

/-- SEND_TX (R186). -/
theorem BlockInv.sendFrame {s : State} (h : BlockInv s) (hb : busy s = true) (fcmd : Nibble) (d : List Byte) :
    BlockInv (sendFrame fcmd d s) :=
  h.transmit hb fun _ ht hf => ht.clearTracking.complete ((busy_congr hf).trans hb)

/-- RECV_RX (R187). -/
theorem BlockInv.recvRx {s : State} (h : BlockInv s) (hs : s.fsm = .recvRx) : BlockInv (recvRx s) := by
  obtain ⟨-, hlen⟩ := h.request 4 (by simp [requestOf, hs])
  have hl := recvLength_le hlen
  refine h.receive (by simp [busy, hs]) hl fun out t hout ht hf => ?_
  have hb : busy t = true := by simp [busy, hf, hs]
  exact ((ht.putBytes rxBase out).withRlen hb (by simp only [rxCap, wireCap] at *; omega)).complete hb

section Messages
variable {s : State} {op : BitVec 4}

/-- M-RRS, M-RRT and M-WR go on to the follower of the state that sends them (R211, R213, R218, R242). -/
theorem BlockInv.transmitAdvance (h : BlockInv s) (hop : requestOf s.fsm = some op) (fcmd : Nibble)
    (d : List Byte) : BlockInv (Machine.transmit fcmd d Machine.advance s) :=
  h.transmit (busy_of_requestOf hop) fun _ ht hf => ht.advance (hf ▸ hop)

/-- M-SACK (R212). -/
theorem BlockInv.receiveSack (h : BlockInv s) (hop : requestOf s.fsm = some op) : BlockInv (receiveSack s) :=
  h.receive (busy_of_requestOf hop) (setupAckLen_le s.cfg)
    fun _ _ _ ht hf => ht.advance (hf ▸ hop)

/-- What a trigger reply leaves (R214). -/
theorem BlockInv.storeReply (h : BlockInv s) (hb : busy s = true) (len : Byte) (out : List Byte) :
    BlockInv (storeReply len out s) := by
  have hlen := len.isLt
  exact { (h.putBytes rxBase out).withRlen hb (n := len.toNat) (by simp only [wireCap]; omega) with }

/-- M-TREP (R214, R242). -/
theorem BlockInv.receiveTrep (h : BlockInv s) (hop : requestOf s.fsm = some op) (len : Byte) :
    BlockInv (receiveTrep len s) := by
  have hlen := len.isLt
  refine h.receive (busy_of_requestOf hop) (by simp only [rxCap]; omega) fun out t _ ht hf => ?_
  have hopt : requestOf t.fsm = some op := hf ▸ hop
  have hst := ht.storeReply (busy_of_requestOf hopt) len out
  split
  · exact hst.complete (busy_of_requestOf hopt)
  · exact hst.advance hopt

/-- M-WACK (R217, R219, R242). -/
theorem BlockInv.receiveWack (h : BlockInv s) (hop : requestOf s.fsm = some op) : BlockInv (receiveWack s) := by
  refine h.receive (busy_of_requestOf hop) (wrAckLen_le s.cfg) fun out t _ ht hf => ?_
  have hopt : requestOf t.fsm = some op := hf ▸ hop
  have hb := busy_of_requestOf hopt
  have hack : BlockInv { t with ack := out.headD 0 } := { ht with }
  simp only
  split
  · exact ((hack.putBytes rxBase (out.take 1)).withRlen hb (n := 1) (by decide)).complete hb
  · exact hack.advance hopt

end Messages

/-- PS_CHECK (R243 to R245): another attempt is counted only below the budget. -/
theorem BlockInv.psCheck {s : State} (h : BlockInv s) (hs : s.fsm = .psCheck) : BlockInv (psCheck s) := by
  obtain ⟨hop, hl⟩ := h.request 7 (by simp [requestOf, hs])
  have hb : busy s = true := by simp [busy, hs]
  obtain ⟨-, heq⟩ | ⟨-, hlt, heq⟩ | ⟨-, -, heq⟩ := psCheck_spec s <;> rw [heq]
  · exact (h.setSpace s.spacel s.page).complete hb
  · have hnext : (s.attempt + 1).toNat ≤ budget s.cfg.val s.spacel := by
      rw [BitVec.toNat_add]
      exact (Nat.mod_le _ _).trans hlt
    exact (h.withAttempt hnext).goto hb (by simp [requestOf, hop]) (hop ▸ hl)
  · exact h.raise (h.not_inReset hb) .budgetExhausted

/-- One FSM step keeps the invariant: each state's action does, in that state. -/
theorem BlockInv.fsmStep {s : State} (h : BlockInv s) : BlockInv (fsmStep s) := by
  cases hs : s.fsm <;> simp only [Machine.fsmStep, hs]
  case idle | faulted => exact h
  case checkArgs => exact h.checkArgs (by simp [busy, hs])
  case encRun => exact h.encRun hs
  case decRun => exact h.decRun hs
  case sendTx => exact h.sendFrame (by simp [busy, hs]) _ _
  case recvRx => exact h.recvRx hs
  case psCheck => exact h.psCheck hs
  case rrSetupTx | rrTrigTx | psRdSetupTx | psRdTrigTx =>
    exact h.transmitAdvance (congrArg requestOf hs) _ _
  case wrTx => exact (h.clearForWrite s.reg).transmitAdvance (congrArg requestOf hs) _ _
  case psWrTx => exact (h.clearSpace s.spacel).transmitAdvance (congrArg requestOf hs) _ _
  case rrSetupRx | psRdSetupRx => exact h.receiveSack (congrArg requestOf hs)
  case rrTrigRx | psRdTrigRx => exact h.receiveTrep (congrArg requestOf hs) _
  case wrRx | psWrRx => exact h.receiveWack (congrArg requestOf hs)

end Sys2Proof.Machine
end

section
/-! The FSM's turn is the action of its state, and a whole request is a run of such turns. -/
namespace Sys2Proof.Machine

open Sys2Proof

/-- SEND_TX carries its own frame, under the name of M-WAKE where the frame is the wake message's (R86, R186). -/
theorem exec_carriedBySend {s : State} (hs : s.fsm = .sendTx) : exec (carriedBySend s) s = .next (sendTx s) := by
  unfold carriedBySend
  split
  case isTrue h =>
    obtain ⟨hcmd, hpay⟩ := h
    simp only [exec, execMWake, hs, if_true, sendTx, hcmd, hpay]
  case isFalse => simp only [exec, execFFrame, hs, if_true, sendTx]

/-- The FSM's turn, through the row the state carries or without one, is the state's action (R111). -/
theorem fsmTurn_eq_fsmStep (s : State) : fsmTurn s = .next (fsmStep s) := by
  cases hs : s.fsm <;> simp only [fsmTurn, carried, fsmStep, hs]
  case sendTx => exact exec_carriedBySend hs
  case rrSetupTx | psRdSetupTx => simp [exec, execMRrs, hs, rrSetupTx, psRdSetupTx]
  case rrTrigTx | psRdTrigTx => simp [exec, execMRrt, hs, rrTrigTx, psRdTrigTx]
  case wrTx | psWrTx => simp [exec, execMWr, hs, wrTx, psWrTx]
  case rrSetupRx | psRdSetupRx => simp [exec, execMSack, hs, rrSetupRx, psRdSetupRx]
  case rrTrigRx | psRdTrigRx => simp [exec, execMTrep, hs, rrTrigRx, psRdTrigRx]
  case wrRx | psWrRx => simp [exec, execMWack, hs, wrRx, psWrRx]

@[simp] theorem txPayload_length (s : State) : (txPayload s).length = s.len.toNat := bytesAt_length _ _ _

/-- The row SEND_TX carries has at most `TX_CAP` bytes (R112, R150). -/
theorem carriedBySend_wf {s : State} (h : s.len.toNat ≤ txCap) : (carriedBySend s).wf = true := by
  unfold carriedBySend
  split <;> simp [Instr.wf, h]

/-- The row a state of the invariant carries is well formed: CHECK_ARGS bounded the length of the two rows that carry
data, SEND's frame and WRITE_REG's M-WR. -/
theorem BlockInv.carried_wf {s : State} (h : BlockInv s) {i : Instr} (hi : carried s = some i) : i.wf = true := by
  cases hs : s.fsm <;> simp only [carried, hs, Option.some.injEq, reduceCtorEq] at hi <;> subst hi
  case sendTx =>
    obtain ⟨-, hlen⟩ := h.request 3 (congrArg requestOf hs)
    exact carriedBySend_wf (lenInRange_send_iff.mp hlen)
  case wrTx =>
    obtain ⟨-, hlen⟩ := h.request 6 (congrArg requestOf hs)
    simpa [Instr.wf] using lenInRange_writeReg_iff.mp hlen
  all_goals rfl

/-- Settles O58: the turn by the case of the state, the row's bound by the invariant. -/
theorem fsmTurnIsStateAction : Obligations.FsmTurnIsStateAction :=
  fun s => ⟨fsmTurn_eq_fsmStep s, fun h _ hi => h.carried_wf hi⟩

/-! ### A request as a run of FSM steps -/

/-- A function of states that takes some number of FSM steps, which may depend on the state. -/
def RunsFsm (run : State → State) : Prop := ∀ s, ∃ n, run s = fsmSteps n s

theorem fsmSteps_add (m n : Nat) (s : State) : fsmSteps (m + n) s = fsmSteps n (fsmSteps m s) := by
  induction m generalizing s with
  | zero => rw [Nat.zero_add, fsmSteps]
  | succ m ih => rw [Nat.succ_add, fsmSteps, fsmSteps, ih]

theorem RunsFsm.id : RunsFsm fun s => s := fun _ => ⟨0, rfl⟩

theorem RunsFsm.comp {f g : State → State} (hf : RunsFsm f) (hg : RunsFsm g) : RunsFsm fun s => f (g s) := by
  intro s
  obtain ⟨m, hm⟩ := hg s
  obtain ⟨n, hn⟩ := hf (g s)
  exact ⟨m + n, hn.trans (by rw [fsmSteps_add, ← hm])⟩

/-- A phase is one FSM step in its state, and none elsewhere (R111). -/
theorem RunsFsm.thenPhase {run : State → State} (h : RunsFsm run) {x : FsmState} {f : State → State}
    (hf : ∀ s, s.fsm = x → fsmStep s = f s) : RunsFsm fun s => phase x f (run s) := by
  refine RunsFsm.comp (fun s => ?_) h
  by_cases hs : s.fsm = x
  · exact ⟨1, (phase_of_eq hs f).trans (hf s hs).symm⟩
  · exact ⟨0, phase_of_ne hs f⟩

theorem runsFsm_checkArgs : RunsFsm (phase .checkArgs checkArgs) :=
  RunsFsm.id.thenPhase fun s hs => by rw [fsmStep, hs]

/-- One attempt of SELECT_PAGE runs the seven states of R242. -/
theorem runsFsm_psAttempt : RunsFsm psAttempt := by
  refine .thenPhase (.thenPhase (.thenPhase (.thenPhase (.thenPhase (.thenPhase (.thenPhase .id ?_) ?_) ?_) ?_)
    ?_) ?_) ?_
  all_goals
    intro s hs
    rw [fsmStep, hs]

theorem runsFsm_psAttempts (n : Nat) : RunsFsm (psAttempts n) := by
  induction n with
  | zero => exact .id
  | succ n ih => exact ih.comp runsFsm_psAttempt

/-- A host command is a `CMD` write (R110, R113, R114), whose acceptance runs the FSM. -/
theorem exec_eq_command {i : Instr} {op : BitVec 4} {sp : BitVec 1} {fc : Nibble}
    (hi : commandOf i = some (op, sp, fc)) :
    ∃ run, RunsFsm run ∧ ∀ s, exec i s = .next (command op sp fc run s) := by
  cases i <;> simp only [commandOf, Option.some.injEq, Prod.mk.injEq, reduceCtorEq] at hi <;>
    obtain ⟨rfl, rfl, rfl⟩ := hi
  case selectPage => exact ⟨_, (runsFsm_psAttempts 7).comp runsFsm_checkArgs, fun _ => rfl⟩
  case readReg =>
    refine ⟨_, .thenPhase (.thenPhase (.thenPhase (.thenPhase runsFsm_checkArgs ?_) ?_) ?_) ?_, fun _ => rfl⟩
    all_goals
      intro s hs
      rw [fsmStep, hs]
  case writeReg =>
    refine ⟨_, .thenPhase (.thenPhase runsFsm_checkArgs ?_) ?_, fun _ => rfl⟩
    all_goals
      intro s hs
      rw [fsmStep, hs]
  case enc | dec | send | recv =>
    refine ⟨_, .thenPhase runsFsm_checkArgs ?_, fun _ => rfl⟩
    intro s hs
    rw [fsmStep, hs]
  all_goals exact ⟨_, runsFsm_checkArgs, fun _ => rfl⟩

/-- Every command word is a host command (R80, R90). -/
theorem decodeCommand_isCommand (w : Word) : ∃ op sp fc, commandOf (decodeCommand w) = some (op, sp, fc) := by
  unfold decodeCommand
  simp only
  split <;> exact ⟨_, _, _, rfl⟩

end Sys2Proof.Machine
end

section
/-! What no action of the FSM writes: the configuration, the latched request, its operands, `OVERRUN`, the reset
input, and what belongs to the host and the schedule (R23, R29, R31, R118). -/
namespace Sys2Proof.Machine

open Sys2Proof

/-- The part of the state that no action of the FSM writes. -/
structure HostSide where
  cfg : Params
  opl : BitVec 4
  spacel : BitVec 1
  fcmdl : Nibble
  reg : Byte
  len : BitVec 16
  page : Byte
  overrun : Bool
  resetIn : Bool
  sched : List Turn
  rdata : Word
  period : Nat
  draws : Nat

/-- That part of a state. -/
def hostSide (s : State) : HostSide where
  cfg := s.cfg
  opl := s.opl
  spacel := s.spacel
  fcmdl := s.fcmdl
  reg := s.reg
  len := s.len
  page := s.page
  overrun := s.overrun
  resetIn := s.resetIn
  sched := s.sched
  rdata := s.rdata
  period := s.period
  draws := s.draws

theorem hostSide_transmit {next : State → State} (hnext : ∀ t, hostSide (next t) = hostSide t) (fcmd : Nibble)
    (d : List Byte) (s : State) : hostSide (transmit fcmd d next s) = hostSide s := by
  obtain ⟨l, -, -, -, heq | heq⟩ := transmit_cases fcmd d next s <;> rw [heq]
  · exact hnext _
  · rfl

theorem hostSide_receive {next : List Byte → State → State} (hnext : ∀ out t, hostSide (next out t) = hostSide t)
    (l : Nat) (mode : RxMode) (s : State) : hostSide (receive l mode next s) = hostSide s := by
  obtain ⟨-, heq⟩ | ⟨-, e, heq, -⟩ | ⟨-, hdr, out, -, -, heq⟩ := receive_cases l mode next s <;> rw [heq]
  case inr.inr => exact hnext out _
  all_goals rfl

theorem hostSide_receiveTrep (len : Byte) (s : State) : hostSide (receiveTrep len s) = hostSide s :=
  hostSide_receive (fun _ _ => by split <;> rfl) _ _ s

theorem hostSide_receiveWack (s : State) : hostSide (receiveWack s) = hostSide s :=
  hostSide_receive (fun _ _ => by dsimp only; split <;> rfl) _ _ s

theorem hostSide_receiveSack (s : State) : hostSide (receiveSack s) = hostSide s :=
  hostSide_receive (next := fun _ => advance) (fun _ _ => rfl) _ _ s

theorem hostSide_recvRx (s : State) : hostSide (recvRx s) = hostSide s := by
  refine hostSide_receive ?_ _ _ s
  exact fun _ _ => rfl

theorem hostSide_sendFrame (fcmd : Nibble) (d : List Byte) (s : State) :
    hostSide (sendFrame fcmd d s) = hostSide s :=
  hostSide_transmit (next := fun t => complete (clearTracking t)) (fun _ => rfl) _ _ s

theorem hostSide_transmit_advance (fcmd : Nibble) (d : List Byte) (s : State) :
    hostSide (transmit fcmd d advance s) = hostSide s :=
  hostSide_transmit (next := advance) (fun _ => rfl) _ _ s

theorem hostSide_checkArgs (s : State) : hostSide (checkArgs s) = hostSide s := by
  obtain ⟨x, heq⟩ | heq | heq | heq := checkArgs_cases s <;> rw [heq] <;> rfl

theorem hostSide_psCheck (s : State) : hostSide (psCheck s) = hostSide s := by
  obtain ⟨-, heq⟩ | ⟨-, -, heq⟩ | ⟨-, -, heq⟩ := psCheck_spec s <;> rw [heq] <;> rfl

theorem hostSide_decRun (s : State) : hostSide (decRun s) = hostSide s := by
  obtain ⟨-, out, -, heq⟩ | ⟨e, -, heq⟩ := decRun_spec s <;> rw [heq] <;> rfl

/-- One FSM step leaves the host's side alone: each state's action does. -/
theorem hostSide_fsmStep (s : State) : hostSide (fsmStep s) = hostSide s := by
  cases hs : s.fsm <;> simp only [fsmStep, hs]
  case encRun => rfl
  case decRun => exact hostSide_decRun s
  case checkArgs => exact hostSide_checkArgs s
  case psCheck => exact hostSide_psCheck s
  case sendTx => exact hostSide_sendFrame _ _ s
  case recvRx => exact hostSide_recvRx s
  case rrSetupTx | rrTrigTx | psRdSetupTx | psRdTrigTx => exact hostSide_transmit_advance _ _ s
  case wrTx => exact hostSide_transmit_advance _ _ (clearForWrite s.reg s)
  case psWrTx => exact hostSide_transmit_advance _ _ (clearSpace s.spacel s)
  case rrSetupRx | psRdSetupRx => exact hostSide_receiveSack s
  case rrTrigRx | psRdTrigRx => exact hostSide_receiveTrep _ s
  case wrRx | psWrRx => exact hostSide_receiveWack s

end Sys2Proof.Machine
end

section
/-! What a step can do, packaged once: a property that the turns outside reset keep holds after every such step. -/
namespace Sys2Proof.Machine

open Sys2Proof

/-- A host write does nothing, writes `CMD`, is dropped, or stores an operand (R67, R115). -/
theorem hostWrite_cases (a : Nat) (v : Word) (s : State) :
    hostWrite a v s = s ∨ hostWrite a v s = writeCommand v s ∨ hostWrite a v s = drop s ∨
      (s.resetIn = false ∧ busy s = false ∧ isOperandOffset a = true ∧ hostWrite a v s = storeOperand a v s) := by
  unfold hostWrite
  split
  case isTrue => exact .inl rfl
  case isFalse hr =>
    split
    case isTrue => exact .inr (.inl rfl)
    case isFalse =>
      split
      case isFalse => exact .inl rfl
      case isTrue ho =>
        split
        case isTrue => exact .inr (.inr (.inl rfl))
        case isFalse hb => exact .inr (.inr (.inr ⟨by simpa using hr, by simpa using hb, ho, rfl⟩))

/-- An access that is answered is a read or a write (R62). -/
theorem hostAccess_eq_next {access : HostAccess} {s t : State} (h : hostAccess access s = .next t) :
    (∃ a, t = hostRead a s) ∨ ∃ a v, t = hostWrite a v s := by
  unfold hostAccess at h
  split at h
  all_goals
    repeat' split at h
    all_goals cases h
  · exact .inl ⟨_, rfl⟩
  · exact .inr ⟨_, _, rfl⟩

/-- A property that every turn but an edge of the reset input keeps. -/
structure KeptOutsideReset (P : State → Prop) : Prop where
  sched : ∀ s l, P s → P { s with sched := l }
  fsmStep : ∀ s, P s → P (fsmStep s)
  accept : ∀ s op sp fc, s.resetIn = false → s.fsm = .idle → P s → P (accept op sp fc s)
  drop : ∀ s, P s → P (drop s)
  storeOperand : ∀ s a v, s.resetIn = false → busy s = false → P s → P (storeOperand a v s)
  hostRead : ∀ s a, P s → P (hostRead a s)
  partner : ∀ s act, P s → P (partnerStep act s)

namespace KeptOutsideReset

variable {P : State → Prop}

theorem fsmSteps (hk : KeptOutsideReset P) (n : Nat) {s : State} (hs : P s) : P (fsmSteps n s) := by
  induction n generalizing s with
  | zero => exact hs
  | succ n ih => exact ih (hk.fsmStep s hs)

theorem command (hk : KeptOutsideReset P) {run : State → State} (hrun : RunsFsm run) (op : BitVec 4)
    (sp : BitVec 1) (fc : Nibble) {s : State} (hs : P s) : P (command op sp fc run s) := by
  obtain ⟨-, heq⟩ | ⟨hr, hi, heq⟩ | ⟨-, -, heq⟩ := command_cases op sp fc run s <;> rw [heq]
  · exact hs
  · obtain ⟨n, hn⟩ := hrun (Machine.accept op sp fc s)
    exact hn ▸ hk.fsmSteps n (hk.accept s op sp fc hr hi hs)
  · exact hk.drop s hs

theorem request (hk : KeptOutsideReset P) {w : Word} {s t : State} (hs : P s)
    (ht : exec (decodeCommand w) s = .next t) : P t := by
  obtain ⟨op, sp, fc, hc⟩ := decodeCommand_isCommand w
  obtain ⟨run, hrun, hexec⟩ := exec_eq_command hc
  rw [hexec, Host.Outcome.next.injEq] at ht
  exact ht ▸ hk.command hrun op sp fc hs

theorem hostAccess (hk : KeptOutsideReset P) {access : HostAccess} {s t : State} (hs : P s)
    (ht : hostAccess access s = .next t) : P t := by
  obtain ⟨a, rfl⟩ | ⟨a, v, rfl⟩ := hostAccess_eq_next ht
  · exact hk.hostRead s a hs
  · obtain heq | heq | heq | ⟨hr, hb, -, heq⟩ := hostWrite_cases a v s <;> rw [heq]
    · exact hs
    · exact hk.command RunsFsm.id _ _ _ hs
    · exact hk.drop s hs
    · exact hk.storeOperand s a v hr hb hs

theorem fsmTurn (hk : KeptOutsideReset P) {s t : State} (hs : P s) (ht : fsmTurn s = .next t) : P t := by
  rw [fsmTurn_eq_fsmStep, Host.Outcome.next.injEq] at ht
  exact ht ▸ hk.fsmStep s hs

/-- After any step, given the two edges of the reset input where the step is one (R6, R311). -/
theorem step (hk : KeptOutsideReset P) {s t : State} (hs : P s) (ht : step s = .next t)
    (hassert : ∀ j l, s.sched.head? = some (.assertReset j) → P (assertReset j { s with sched := l }))
    (hrelease : ∀ l, s.sched.head? = some .releaseReset → P (releaseReset { s with sched := l })) : P t := by
  rcases hsched : s.sched with _ | ⟨turn, rest⟩
  · rw [step_of_sched_nil hsched] at ht
    exact hk.fsmTurn hs ht
  · have hhead : s.sched.head? = some turn := by rw [hsched, List.head?_cons]
    have hs' : P { s with sched := rest } := hk.sched s rest hs
    rw [step_of_sched_cons hsched] at ht
    cases turn with
    | request w => exact hk.request hs' ht
    | host access => exact hk.hostAccess hs' ht
    | fsm => exact hk.fsmTurn hs' ht
    | partner act => cases ht; exact hk.partner _ act hs'
    | assertReset j => cases ht; exact hassert j rest hhead
    | releaseReset => cases ht; exact hrelease rest hhead

end KeptOutsideReset

end Sys2Proof.Machine
end

section
/-! The step's invariants: the configuration, `OVERRUN`, and the block's own. -/
namespace Sys2Proof.Machine

open Sys2Proof

/-- A host read changes the word read and the count of free reads alone (R67). -/
theorem hostRead_eq (a : Nat) (s : State) : ∃ v n, hostRead a s = { s with rdata := v, draws := n } := by
  unfold hostRead
  split <;> exact ⟨_, _, rfl⟩

/-- A stored operand changes a register or the memory alone (R38 to R40, R48). -/
theorem storeOperand_eq (a : Nat) (v : Word) (s : State) :
    ∃ reg len page mem, storeOperand a v s = { s with reg := reg, len := len, page := page, mem := mem } ∧
      (s.mem.wf = true → mem.wf = true) := by
  unfold storeOperand
  repeat' split
  case isFalse => exact ⟨_, _, _, _, rfl, fun h => putBytes_mem_wf h a (bytesOf v)⟩
  all_goals exact ⟨_, _, _, _, rfl, id⟩

theorem storeOperand_cfg (a : Nat) (v : Word) (s : State) : (storeOperand a v s).cfg = s.cfg := by
  obtain ⟨_, _, _, _, heq, -⟩ := storeOperand_eq a v s
  rw [heq]

theorem storeOperand_overrun (a : Nat) (v : Word) (s : State) : (storeOperand a v s).overrun = s.overrun := by
  obtain ⟨_, _, _, _, heq, -⟩ := storeOperand_eq a v s
  rw [heq]

theorem hostRead_cfg (a : Nat) (s : State) : (hostRead a s).cfg = s.cfg := by
  obtain ⟨_, _, heq⟩ := hostRead_eq a s
  rw [heq]

theorem hostRead_overrun (a : Nat) (s : State) : (hostRead a s).overrun = s.overrun := by
  obtain ⟨_, _, heq⟩ := hostRead_eq a s
  rw [heq]

theorem partnerStep_cfg (act : PartnerAct) (s : State) : (partnerStep act s).cfg = s.cfg := by
  cases act <;> rfl

theorem partnerStep_overrun (act : PartnerAct) (s : State) : (partnerStep act s).overrun = s.overrun := by
  cases act <;> rfl

theorem releaseReset_cfg (s : State) : (releaseReset s).cfg = s.cfg := by
  unfold releaseReset
  split <;> rfl

/-- A release without an assertion is none (R340). -/
theorem releaseReset_of_not_inReset {s : State} (h : s.resetIn = false) : releaseReset s = s := by
  rw [releaseReset, if_neg (by simp [h])]

theorem fsmStep_cfg (s : State) : (fsmStep s).cfg = s.cfg := congrArg HostSide.cfg (hostSide_fsmStep s)

theorem fsmStep_overrun (s : State) : (fsmStep s).overrun = s.overrun :=
  congrArg HostSide.overrun (hostSide_fsmStep s)

theorem keptOutsideReset_cfg (c : Params) : KeptOutsideReset (·.cfg = c) where
  sched _ _ h := h
  fsmStep s h := (fsmStep_cfg s).trans h
  accept _ _ _ _ _ _ h := h
  drop _ h := h
  storeOperand s a v _ _ h := (storeOperand_cfg a v s).trans h
  hostRead s a h := (hostRead_cfg a s).trans h
  partner s act h := (partnerStep_cfg act s).trans h

/-- Settles O46: both edges of the reset input keep the constants too (R345). -/
theorem configurationNeverChanges : Obligations.ConfigurationNeverChanges := fun s _ ht =>
  (keptOutsideReset_cfg s.cfg).step rfl ht (fun _ _ _ => rfl) fun _ _ => releaseReset_cfg _

theorem keptOutsideReset_overrun : KeptOutsideReset (·.overrun = true) where
  sched _ _ h := h
  fsmStep s h := (fsmStep_overrun s).trans h
  accept _ _ _ _ _ _ h := h
  drop _ _ := rfl
  storeOperand s a v _ _ h := (storeOperand_overrun a v s).trans h
  hostRead s a h := (hostRead_overrun a s).trans h
  partner s act h := (partnerStep_overrun act s).trans h

/-- Settles O47: an edge of the reset input that has an effect is excluded, and a release without an assertion has
none. -/
theorem overrunIsSticky : Obligations.OverrunIsSticky := by
  intro s t ho ht hassert hrelease
  refine keptOutsideReset_overrun.step ho ht (fun j _ hj => absurd hj (hassert j)) fun l hl => ?_
  have hr : s.resetIn = false := by simpa [hl] using hrelease
  have heq : releaseReset { s with sched := l } = { s with sched := l } := releaseReset_of_not_inReset hr
  exact (congrArg State.overrun heq).trans ho

/-! ### The block's invariant -/

/-- Acceptance clears what the invariant asks of a running request (R110). -/
theorem BlockInv.accept {s : State} (h : BlockInv s) (hr : s.resetIn = false) (op : BitVec 4) (sp : BitVec 1)
    (fc : Nibble) : BlockInv (accept op sp fc s) where
  memory := h.memory
  request _ hop := by simp [requestOf] at hop
  attempts := Nat.zero_le _
  inProgress _ := ⟨rfl, rfl, rfl⟩
  errorCode := .inl ⟨rfl, rfl⟩
  faulted := by simp [errCode]
  errorEnds hne := absurd rfl hne
  lengths := ⟨Nat.zero_le _, h.lengths.2⟩
  arrived := h.arrived
  inReset hi := by simp [hr] at hi

/-- An operand is stored only with no request in progress, so no checked length changes (R115, R118). -/
theorem BlockInv.storeOperand {s : State} (h : BlockInv s) (hb : busy s = false) (a : Nat) (v : Word) :
    BlockInv (storeOperand a v s) := by
  obtain ⟨_, _, _, _, heq, hmem⟩ := storeOperand_eq a v s
  rw [heq]
  exact { h with
    memory := hmem h.memory
    request := fun op hop => absurd hop (requestOf_ne_some_of_not_busy hb op) }

theorem BlockInv.partnerStep {s : State} (h : BlockInv s) (act : PartnerAct) : BlockInv (partnerStep act s) := by
  have harr := h.arrived
  cases act with
  | supply answers => exact { h with arrived := by simp only [Machine.partnerStep, List.length_append]; omega }
  | arrive count => exact { h with arrived := Nat.min_le_right _ _ }
  | answerTx answer => exact { h with }

/-- The reset action reaches the invariant from any state (R340). -/
theorem blockInv_resetAction (s : State) : BlockInv (resetAction s) where
  memory := reset_mem_wf
  request _ hop := nomatch hop
  attempts := Nat.zero_le _
  inProgress hb := nomatch hb
  errorCode := .inl ⟨rfl, rfl⟩
  faulted := iff_of_false nofun (show ¬ (0 : BitVec 4) = errCode .io by decide)
  errorEnds hne := absurd rfl hne
  lengths := ⟨Nat.zero_le _, Nat.zero_le _⟩
  arrived := Nat.zero_le _
  inReset _ := rfl

theorem blockInv_assertReset (j : Nat) (s : State) : BlockInv (assertReset j s) :=
  { blockInv_resetAction (putOut ((frameInTx s).take j) s) with inReset := fun _ => rfl }

theorem BlockInv.releaseReset {s : State} (h : BlockInv s) : BlockInv (releaseReset s) := by
  unfold Machine.releaseReset
  split
  · exact { blockInv_resetAction s with inReset := fun _ => rfl }
  · exact h

/-- Settles O60: the state after reset is what the reset action makes of itself, but for the reset period. -/
theorem resetHasInvariant : Obligations.ResetHasInvariant := { blockInv_resetAction State.reset with }

theorem keptOutsideReset_blockInv : KeptOutsideReset BlockInv where
  sched _ _ h := { h with }
  fsmStep _ h := h.fsmStep
  accept _ op sp fc hr _ h := h.accept hr op sp fc
  drop _ h := { h with }
  storeOperand _ a v _ hb h := h.storeOperand hb a v
  hostRead s a h := by
    obtain ⟨_, _, heq⟩ := hostRead_eq a s
    rw [heq]
    exact { h with }
  partner _ act h := h.partnerStep act

/-- Settles O59: every kind of turn keeps the invariant, and an assertion of reset establishes it. -/
theorem stepKeepsInvariant : Obligations.StepKeepsInvariant := fun _ _ h ht =>
  keptOutsideReset_blockInv.step h ht (fun j _ _ => blockInv_assertReset j _)
    fun _ _ => BlockInv.releaseReset { h with }

/-- Settles O56: the release's reset action, on what the assertion left; the queued bytes go with the first of the two,
which leaves none for the second. -/
theorem resetLeaves : Obligations.ResetLeaves := by
  rintro s t j rfl
  and_intros <;> rfl

end Sys2Proof.Machine
end

section
/-! The readable words, field by field (10_state.md R36 to R49). Each word is a concatenation, so a field is reached by
dropping the fields below it. -/
namespace Sys2Proof.Machine

open Sys2Proof

/-! ### Fields of a concatenation -/

section Fields
variable {v w : Nat}

theorem getLsbD_append_of_le {x : BitVec v} {y : BitVec w} {i : Nat} (h : w ≤ i) :
    (x ++ y).getLsbD i = x.getLsbD (i - w) := by
  rw [BitVec.getLsbD_append, if_neg (by omega)]

/-- The lowest bit of a concatenation that ends in a flag is the flag. -/
theorem getLsbD_append_ofBool (x : BitVec v) (b : Bool) : (x ++ BitVec.ofBool b).getLsbD 0 = b := by
  rw [BitVec.getLsbD_append, if_pos (by decide)]
  cases b <;> rfl

end Fields

/-- `STATUS` (R37). -/
theorem statusWord_layout (s : State) :
    (statusWord s).getLsbD 0 = busy s ∧ (statusWord s).getLsbD 1 = s.done ∧
      (statusWord s).getLsbD 2 = (s.fsm == .faulted) ∧ (statusWord s).getLsbD 3 = s.overrun ∧
      (statusWord s).extractLsb' 4 4 = s.err ∧ (statusWord s).extractLsb' 8 8 = s.cause ∧
      (statusWord s).extractLsb' 16 3 = s.attempt ∧ (statusWord s).getLsbD 19 = s.rxhdrV ∧
      (statusWord s).extractLsb' 20 4 = s.rxhdr ∧ (statusWord s).extractLsb' 24 3 = 0 ∧
      (statusWord s).extractLsb' 27 5 = fsmCode s.fsm := by
  unfold statusWord
  refine ⟨?busy, ?done, ?faulted, ?overrun, ?err, ?cause, ?attempt, ?rxhdrV, ?rxhdr, ?reserved, ?fsm⟩
  all_goals repeat rw [BitVec.extractLsb'_append_eq_of_le (by decide)]
  all_goals repeat rw [getLsbD_append_of_le (by decide)]
  case busy | done | faulted | overrun | rxhdrV => exact getLsbD_append_ofBool _ _
  case err | cause | attempt | rxhdr | reserved => exact BitVec.extractLsb'_append_eq_right
  case fsm => exact BitVec.extractLsb'_eq_self

/-- `CMD` (R36). -/
theorem cmdWord_layout (s : State) :
    (cmdWord s).extractLsb' 0 4 = s.opl ∧ (cmdWord s).extractLsb' 4 1 = s.spacel ∧
      (cmdWord s).extractLsb' 5 3 = 0 ∧ (cmdWord s).extractLsb' 8 4 = s.fcmdl ∧
      (cmdWord s).extractLsb' 12 20 = 0 := by
  unfold cmdWord
  refine ⟨?op, ?space, ?low, ?fcmd, ?high⟩
  all_goals repeat rw [BitVec.extractLsb'_append_eq_of_le (by decide)]
  case high => exact BitVec.extractLsb'_eq_self
  all_goals exact BitVec.extractLsb'_append_eq_right

/-- A word of one field below reserved bits: `REG`, `LEN`, `PAGE` (R38 to R40), `WLENR` (R46). -/
theorem oneField_layout {k n : Nat} (x : BitVec n) :
    ((0 : BitVec k) ++ x).extractLsb' 0 n = x ∧ ((0 : BitVec k) ++ x).extractLsb' n k = 0 := by
  refine ⟨BitVec.extractLsb'_append_eq_right, ?_⟩
  rw [BitVec.extractLsb'_append_eq_of_le (Nat.le_refl n), Nat.sub_self]
  exact BitVec.extractLsb'_eq_self

/-- `RESULT` (R41). -/
theorem resultWord_layout (s : State) :
    (resultWord s).extractLsb' 0 11 = s.rlen ∧ (resultWord s).extractLsb' 11 5 = 0 ∧
      (resultWord s).extractLsb' 16 8 = s.statbyte ∧ (resultWord s).extractLsb' 24 8 = s.ack := by
  unfold resultWord
  refine ⟨?rlen, ?reserved, ?statbyte, ?ack⟩
  all_goals repeat rw [BitVec.extractLsb'_append_eq_of_le (by decide)]
  case ack => exact BitVec.extractLsb'_eq_self
  all_goals exact BitVec.extractLsb'_append_eq_right

/-- `ERRINFO` (R42). -/
theorem errInfoWord_layout (s : State) :
    (errInfoWord s).extractLsb' 0 8 = s.errReg ∧ (errInfoWord s).extractLsb' 8 8 = s.errPage ∧
      (errInfoWord s).extractLsb' 16 1 = s.errSpace ∧ (errInfoWord s).extractLsb' 17 7 = 0 ∧
      (errInfoWord s).extractLsb' 24 5 = s.errPhase ∧ (errInfoWord s).extractLsb' 29 3 = 0 := by
  unfold errInfoWord
  refine ⟨?reg, ?page, ?space, ?low, ?phase, ?high⟩
  all_goals repeat rw [BitVec.extractLsb'_append_eq_of_le (by decide)]
  case high => exact BitVec.extractLsb'_eq_self
  all_goals exact BitVec.extractLsb'_append_eq_right

/-- `PAGETRK` (R43). -/
theorem pageTrkWord_layout (s : State) :
    (pageTrkWord s).extractLsb' 0 8 = s.mainPage ∧ (pageTrkWord s).getLsbD 8 = s.mainValid ∧
      (pageTrkWord s).extractLsb' 9 7 = 0 ∧ (pageTrkWord s).extractLsb' 16 8 = s.subPage ∧
      (pageTrkWord s).getLsbD 24 = s.subValid ∧ (pageTrkWord s).extractLsb' 25 7 = 0 := by
  unfold pageTrkWord
  refine ⟨?mainPage, ?mainValid, ?low, ?subPage, ?subValid, ?high⟩
  all_goals repeat rw [BitVec.extractLsb'_append_eq_of_le (by decide)]
  all_goals repeat rw [getLsbD_append_of_le (by decide)]
  case mainPage | low | subPage => exact BitVec.extractLsb'_append_eq_right
  case mainValid | subValid => exact getLsbD_append_ofBool _ _
  case high => exact BitVec.extractLsb'_eq_self

/-- `PARAM0` (R44). -/
theorem param0Word_layout (c : Config) :
    (param0Word c).extractLsb' 0 3 = c.nMain ∧ (param0Word c).getLsbD 3 = false ∧
      (param0Word c).extractLsb' 4 3 = c.nSub ∧ (param0Word c).getLsbD 7 = false ∧
      (param0Word c).extractLsb' 8 8 = c.mainPageReg ∧ (param0Word c).extractLsb' 16 8 = c.subPageReg ∧
      (param0Word c).extractLsb' 24 8 = c.hdrMask := by
  unfold param0Word
  refine ⟨?nMain, ?bit3, ?nSub, ?bit7, ?mainReg, ?subReg, ?mask⟩
  all_goals repeat rw [BitVec.extractLsb'_append_eq_of_le (by decide)]
  all_goals repeat rw [getLsbD_append_of_le (by decide)]
  case nMain | nSub | mainReg | subReg => exact BitVec.extractLsb'_append_eq_right
  case bit3 | bit7 => exact getLsbD_append_ofBool _ false
  case mask => exact BitVec.extractLsb'_eq_self

/-- `PARAM1` (R45). -/
theorem param1Word_layout (c : Config) :
    (param1Word c).extractLsb' 0 11 = 512 ∧ (param1Word c).extractLsb' 11 5 = 0 ∧
      (param1Word c).extractLsb' 16 11 = 1026 ∧ (param1Word c).getLsbD 27 = false ∧
      (param1Word c).extractLsb' 28 3 = c.replySentinel ∧ (param1Word c).getLsbD 31 = false := by
  unfold param1Word
  refine ⟨?rxCap, ?reserved, ?wireCap, ?bit27, ?sentinel, ?bit31⟩
  all_goals repeat rw [BitVec.extractLsb'_append_eq_of_le (by decide)]
  all_goals repeat rw [getLsbD_append_of_le (by decide)]
  case rxCap | reserved | wireCap | sentinel => exact BitVec.extractLsb'_append_eq_right
  case bit27 => exact getLsbD_append_ofBool _ false
  case bit31 => rfl

/-- Settles O53: the words by offset, each with its layout. -/
theorem registerWordsLayout : Obligations.RegisterWordsLayout := fun s =>
  ⟨statusWord_layout s, cmdWord_layout s,
    ⟨(oneField_layout s.reg).1, (oneField_layout s.reg).2, (oneField_layout s.len).1, (oneField_layout s.len).2,
      (oneField_layout s.page).1, (oneField_layout s.page).2⟩,
    resultWord_layout s, errInfoWord_layout s, pageTrkWord_layout s, param0Word_layout s.cfg.val,
    param1Word_layout s.cfg.val, oneField_layout s.wlen⟩

end Sys2Proof.Machine
end

section
/-! The words that are bytes: the `CIPHER` window and the buffers (R47, R48, R61); and the offsets that hold nothing
(R49). -/
namespace Sys2Proof.Machine

open Sys2Proof

/-- A word's bytes, lowest first (R61). -/
theorem wordOf_layout (b0 b1 b2 b3 : Byte) :
    (wordOf b0 b1 b2 b3).extractLsb' 0 8 = b0 ∧ (wordOf b0 b1 b2 b3).extractLsb' 8 8 = b1 ∧
      (wordOf b0 b1 b2 b3).extractLsb' 16 8 = b2 ∧ (wordOf b0 b1 b2 b3).extractLsb' 24 8 = b3 := by
  unfold wordOf
  refine ⟨?b0, ?b1, ?b2, ?b3⟩
  all_goals repeat rw [BitVec.extractLsb'_append_eq_of_le (by decide)]
  case b3 => exact BitVec.extractLsb'_eq_self
  all_goals exact BitVec.extractLsb'_append_eq_right

/-- The bytes of a word make the word again. -/
theorem wordOf_bytes (v : Word) :
    wordOf (v.extractLsb' 0 8) (v.extractLsb' 8 8) (v.extractLsb' 16 8) (v.extractLsb' 24 8) = v := by
  unfold wordOf
  rw [BitVec.extractLsb'_append_extractLsb'_eq_extractLsb' (show 24 = 16 + 8 from rfl),
    BitVec.extractLsb'_append_extractLsb'_eq_extractLsb' (show 16 = 8 + 8 from rfl),
    BitVec.extractLsb'_append_extractLsb'_eq_extractLsb' (show 8 = 0 + 8 from rfl)]
  exact BitVec.extractLsb'_eq_self

/-- Masking is by bytes. -/
theorem wordOf_and_wordOf (a0 a1 a2 a3 b0 b1 b2 b3 : Byte) :
    wordOf a0 a1 a2 a3 &&& wordOf b0 b1 b2 b3 = wordOf (a0 &&& b0) (a1 &&& b1) (a2 &&& b2) (a3 &&& b3) := by
  unfold wordOf
  rw [BitVec.and_append, BitVec.and_append, BitVec.and_append]

theorem readWord_of_cipher {s : State} {a : Nat} (h : 0x040 ≤ a ∧ a < 0x050) :
    readWord s a = cipherWord s.cfg.val (a - 0x040) := by
  unfold readWord
  repeat rw [if_neg (by omega)]
  rw [if_pos h]

theorem readWord_of_buffer {s : State} {a : Nat} (h : txBase ≤ a ∧ a < 0xC04) :
    readWord s a = bufferWord s a := by
  have hlo : 0x400 ≤ a := h.1
  unfold readWord
  repeat rw [if_neg (by omega)]
  rw [if_pos h]

/-- The reserved offsets (R49). -/
def isReservedOffset (a : Nat) : Prop := (0x02C ≤ a ∧ a < 0x040) ∨ (0x050 ≤ a ∧ a < 0x400) ∨ 0xC04 ≤ a

theorem readWord_of_reserved {s : State} {a : Nat} (h : isReservedOffset a) : readWord s a = 0 := by
  unfold isReservedOffset at h
  unfold readWord txBase
  repeat rw [if_neg (by omega)]

theorem fieldMask_of_reserved {a : Nat} (h : isReservedOffset a) : fieldMask a = 0 := by
  unfold isReservedOffset at h
  unfold fieldMask txBase
  repeat rw [if_neg (by omega)]

theorem unstableOffset_of_reserved {a : Nat} (h : isReservedOffset a) : unstableOffset a = false := by
  unfold isReservedOffset at h
  simp only [unstableOffset, Bool.or_eq_false_iff, Bool.and_eq_false_iff, beq_eq_false_iff_ne,
    decide_eq_false_iff_not]
  unfold rxBase
  omega

/-- Byte `r` of the window's word at byte `k` is the symbol of `k + r` (R47). -/
theorem cipherWord_extractLsb' (c : Config) (k : Nat) {r : Nat} (hr : r < 4) :
    (cipherWord c k).extractLsb' (8 * r) 8 = c.symbol (BitVec.ofNat 4 (k + r)) := by
  obtain ⟨h0, h1, h2, h3⟩ := wordOf_layout (c.symbol (BitVec.ofNat 4 k)) (c.symbol (BitVec.ofNat 4 (k + 1)))
    (c.symbol (BitVec.ofNat 4 (k + 2))) (c.symbol (BitVec.ofNat 4 (k + 3)))
  match r with
  | 0 => exact h0
  | 1 => exact h1
  | 2 => exact h2
  | 3 => exact h3

/-- Settles O54: byte `k` is byte `k % 4` of the word that starts at byte `k / 4 * 4` of the window. -/
theorem cipherWindowAndReserved : Obligations.CipherWindowAndReserved := by
  intro s
  refine ⟨fun k hk => ?_, fun a ha => readWord_of_reserved ha⟩
  rw [readWord_of_cipher (by omega), cipherWord_extractLsb' _ _ (Nat.mod_lt k (by decide))]
  congr 2
  omega

end Sys2Proof.Machine
end

section
/-! Reserved bits read 0 (R90, R36 to R46, R48, R49). -/
namespace Sys2Proof.Machine

open Sys2Proof

/-- The bits of a field of `k` bits at bit `i`. -/
def fieldBits (i k : Nat) : Word := (BitVec.allOnes k).setWidth 32 <<< i

theorem and_fieldBits_of_bits {x : Word} {i k : Nat} (h : ∀ j, i ≤ j → j < i + k → x.getLsbD j = false) :
    x &&& fieldBits i k = 0 := by
  apply BitVec.eq_of_getLsbD_eq
  intro j hj
  rw [BitVec.getLsbD_and, fieldBits, BitVec.getLsbD_shiftLeft, BitVec.getLsbD_setWidth, BitVec.getLsbD_allOnes,
    show (0 : Word).getLsbD j = false from BitVec.getLsbD_zero]
  by_cases hin : i ≤ j ∧ j < i + k
  · rw [h j hin.1 hin.2, Bool.false_and]
  · have hout : (decide (j < 32) && !decide (j < i) && (decide (j - i < 32) && decide (j - i < k))) = false := by
      simp only [Bool.and_eq_false_iff, Bool.not_eq_false', decide_eq_true_eq, decide_eq_false_iff_not]
      omega
    rw [hout, Bool.and_false]

/-- A word whose field is 0 has none of the field's bits. -/
theorem and_fieldBits {x : Word} {i k : Nat} (h : x.extractLsb' i k = 0) : x &&& fieldBits i k = 0 := by
  refine and_fieldBits_of_bits fun j hij hjk => ?_
  have hbit := congrArg (·.getLsbD (j - i)) h
  simpa [BitVec.getLsbD_extractLsb', show j - i < k by omega, show i + (j - i) = j by omega] using hbit

theorem and_fieldBit {x : Word} {i : Nat} (h : x.getLsbD i = false) : x &&& fieldBits i 1 = 0 :=
  and_fieldBits_of_bits fun j hij hji => by rwa [show j = i by omega]

theorem and_or_eq_zero {x m n : Word} (hm : x &&& m = 0) (hn : x &&& n = 0) : x &&& (m ||| n) = 0 := by
  rw [BitVec.and_or_distrib_left, hm, hn]
  rfl

theorem cmdWord_reserved (s : State) : cmdWord s &&& 0xFFFFF0E0 = 0 := by
  obtain ⟨-, -, hlow, -, hhigh⟩ := cmdWord_layout s
  rw [show (0xFFFFF0E0 : Word) = fieldBits 5 3 ||| fieldBits 12 20 by decide]
  exact and_or_eq_zero (and_fieldBits hlow) (and_fieldBits hhigh)

theorem statusWord_reserved (s : State) : statusWord s &&& 0x07000000 = 0 := by
  obtain ⟨-, -, -, -, -, -, -, -, -, hres, -⟩ := statusWord_layout s
  exact and_fieldBits hres

theorem resultWord_reserved (s : State) : resultWord s &&& 0x0000F800 = 0 := by
  obtain ⟨-, hres, -, -⟩ := resultWord_layout s
  exact and_fieldBits hres

theorem errInfoWord_reserved (s : State) : errInfoWord s &&& 0xE0FE0000 = 0 := by
  obtain ⟨-, -, -, hlow, -, hhigh⟩ := errInfoWord_layout s
  rw [show (0xE0FE0000 : Word) = fieldBits 17 7 ||| fieldBits 29 3 by decide]
  exact and_or_eq_zero (and_fieldBits hlow) (and_fieldBits hhigh)

theorem pageTrkWord_reserved (s : State) : pageTrkWord s &&& 0xFE00FE00 = 0 := by
  obtain ⟨-, -, hlow, -, -, hhigh⟩ := pageTrkWord_layout s
  rw [show (0xFE00FE00 : Word) = fieldBits 9 7 ||| fieldBits 25 7 by decide]
  exact and_or_eq_zero (and_fieldBits hlow) (and_fieldBits hhigh)

theorem param0Word_reserved (c : Config) : param0Word c &&& 0x00000088 = 0 := by
  obtain ⟨-, h3, -, h7, -⟩ := param0Word_layout c
  rw [show (0x00000088 : Word) = fieldBits 3 1 ||| fieldBits 7 1 by decide]
  exact and_or_eq_zero (and_fieldBit h3) (and_fieldBit h7)

theorem param1Word_reserved (c : Config) : param1Word c &&& 0x8800F800 = 0 := by
  obtain ⟨-, hres, -, h27, -, h31⟩ := param1Word_layout c
  rw [show (0x8800F800 : Word) = fieldBits 11 5 ||| (fieldBits 27 1 ||| fieldBits 31 1) by decide]
  exact and_or_eq_zero (and_fieldBits hres) (and_or_eq_zero (and_fieldBit h27) (and_fieldBit h31))

/-- A read that R70 does not leave any value has none of the bits `m`, where the word has none and no field covers one:
in reset the free value is cut to the fields. -/
theorem hostRead_and_eq_zero {a : Nat} {s : State} {m : Word} (hu : readIsUnstable a s = false)
    (hm : fieldMask a &&& m = 0) (hw : readWord s a &&& m = 0) : (hostRead a s).rdata &&& m = 0 := by
  obtain ⟨hu', -⟩ | ⟨-, -, -, heq⟩ | ⟨-, -, heq⟩ := hostRead_cases a s
  · rw [hu] at hu'; cases hu'
  · rw [heq]
    calc Config.anyRead s.draws &&& fieldMask a &&& m
        = Config.anyRead s.draws &&& (fieldMask a &&& m) := BitVec.and_assoc ..
      _ = Config.anyRead s.draws &&& 0 := by rw [hm]
      _ = 0 := BitVec.and_zero
  · rw [heq]
    exact hw

theorem readIsUnstable_of_not_busy {a : Nat} {s : State} (h : busy s = false) : readIsUnstable a s = false := by
  rw [readIsUnstable, h, Bool.false_and]

theorem readIsUnstable_of_stable {a : Nat} {s : State} (h : unstableOffset a = false) :
    readIsUnstable a s = false := by
  rw [readIsUnstable, h, Bool.and_false]

/-- The word at 0xC00 holds two bytes: with canonical memory the two past `WIREBUF` are 0 (R48). -/
theorem readWord_lastWireWord {s : State} (h : s.mem.wf = true) :
    readWord s 0xC00 = wordOf (byteAt s 0xC00) (byteAt s 0xC01) 0 0 := by
  rw [readWord_of_buffer (by decide), bufferWord, byteAt_of_not_storage h (a := 0xC00 + 2) (by decide),
    byteAt_of_not_storage h (a := 0xC00 + 3) (by decide)]

theorem lastWireWord_reserved {s : State} (h : s.mem.wf = true) : readWord s 0xC00 &&& 0xFFFF0000 = 0 := by
  rw [readWord_lastWireWord h, show (0xFFFF0000 : Word) = wordOf 0 0 0xFF 0xFF by decide, wordOf_and_wordOf]
  exact congrArg₂ (wordOf · · 0 0) BitVec.and_zero BitVec.and_zero

/-- A reserved offset reads 0 in every state, in reset too (R49). -/
theorem hostRead_of_reserved {a : Nat} (h : isReservedOffset a) (s : State) : (hostRead a s).rdata = 0 := by
  have hzero : (hostRead a s).rdata &&& BitVec.allOnes 32 = 0 :=
    hostRead_and_eq_zero (readIsUnstable_of_stable (unstableOffset_of_reserved h))
      (by rw [fieldMask_of_reserved h, BitVec.and_allOnes]) (by rw [readWord_of_reserved h, BitVec.and_allOnes])
  rwa [BitVec.and_allOnes] at hzero

/-- Settles O52: at each offset the reserved bits are those no field covers. -/
theorem reservedBitsReadZero : Obligations.ReservedBitsReadZero := by
  intro s
  refine ⟨⟨?cmd, ?status, ?reg, ?len, ?page, ?param0, ?param1⟩,
    fun hb => ⟨?result, ?errInfo, ?pageTrk, ?wlenr⟩, fun hb hmem => ?lastWord, fun a ha => hostRead_of_reserved ha s⟩
  case cmd => exact hostRead_and_eq_zero (readIsUnstable_of_stable rfl) (by decide) (cmdWord_reserved s)
  case status => exact hostRead_and_eq_zero (readIsUnstable_of_stable rfl) (by decide) (statusWord_reserved s)
  case reg | len | page =>
    exact hostRead_and_eq_zero (readIsUnstable_of_stable rfl) (by decide) (and_fieldBits (oneField_layout _).2)
  case param0 =>
    exact hostRead_and_eq_zero (readIsUnstable_of_stable rfl) (by decide) (param0Word_reserved s.cfg.val)
  case param1 =>
    exact hostRead_and_eq_zero (readIsUnstable_of_stable rfl) (by decide) (param1Word_reserved s.cfg.val)
  case result => exact hostRead_and_eq_zero (readIsUnstable_of_not_busy hb) (by decide) (resultWord_reserved s)
  case errInfo => exact hostRead_and_eq_zero (readIsUnstable_of_not_busy hb) (by decide) (errInfoWord_reserved s)
  case pageTrk => exact hostRead_and_eq_zero (readIsUnstable_of_not_busy hb) (by decide) (pageTrkWord_reserved s)
  case wlenr =>
    exact hostRead_and_eq_zero (readIsUnstable_of_not_busy hb) (by decide) (and_fieldBits (oneField_layout _).2)
  case lastWord =>
    exact hostRead_and_eq_zero (readIsUnstable_of_not_busy hb) (by decide) (lastWireWord_reserved hmem)

end Sys2Proof.Machine
end

section
/-! Host writes by offset (R38 to R40, R48, R49, R115), and rows out of place (R93, R111). -/
namespace Sys2Proof.Machine

open Sys2Proof

/-- The offsets of R115. -/
theorem isOperandOffset_iff {a : Nat} : isOperandOffset a = true ↔
    a = 0x008 ∨ a = 0x00C ∨ a = 0x010 ∨ (0x400 ≤ a ∧ a < 0x600) ∨ (0x800 ≤ a ∧ a < 0xC04) := by
  simp only [isOperandOffset, Bool.or_eq_true, Bool.and_eq_true, beq_iff_eq, decide_eq_true_eq, or_assoc]
  unfold txBase rxBase wireBase
  rfl

/-- Outside reset, a write at an operand's offset is dropped while BUSY and stored otherwise (R115). -/
theorem hostWrite_of_operand {s : State} (hr : s.resetIn = false) {a : Nat} (ha : isOperandOffset a = true)
    (v : Word) : hostWrite a v s = if busy s then drop s else storeOperand a v s := by
  have hcmd : a ≠ 0x000 := by rintro rfl; exact absurd ha (by decide)
  rw [hostWrite, hr, if_neg (by decide), if_neg hcmd, if_pos ha]

/-- A write anywhere else but at `CMD` is ignored (R49). -/
theorem hostWrite_of_not_operand {s : State} {a : Nat} (hcmd : a ≠ 0x000) (ha : isOperandOffset a = false)
    (v : Word) : hostWrite a v s = s := by
  rw [hostWrite, if_neg hcmd, ha, if_neg Bool.false_ne_true, ite_self]

/-- Settles O49. -/
theorem hostWritesByOffset : Obligations.HostWritesByOffset := by
  intro s v hr
  refine ⟨fun hb a ha => ?busy, fun hb => ⟨?reg, ?len, ?page⟩, fun a ha => ?ignored⟩
  case busy =>
    rw [hostWrite_of_operand hr (isOperandOffset_iff.mpr ha), if_pos hb]
    rfl
  case reg | len | page =>
    rw [hostWrite_of_operand hr (by decide), hb]
    rfl
  case ignored =>
    refine hostWrite_of_not_operand (by omega) ?_ v
    rw [← Bool.not_eq_true, isOperandOffset_iff]
    omega

/-- Outside reset and with no request in progress, a write in a buffer the host may write stores the word's bytes
(R48). -/
theorem hostWrite_of_buffer {s : State} (hr : s.resetIn = false) (hb : busy s = false) {a : Nat}
    (ha : (0x400 ≤ a ∧ a < 0x600) ∨ (0x800 ≤ a ∧ a < 0xC04)) (v : Word) :
    hostWrite a v s = putBytes a (bytesOf v) s := by
  rw [hostWrite_of_operand hr (isOperandOffset_iff.mpr (.inr (.inr (.inr ha)))), hb, if_neg (by decide),
    storeOperand, if_neg (by omega), if_neg (by omega), if_neg (by omega)]

theorem isStorage_iff {a : Nat} : isStorage a = true ↔ 0x400 ≤ a ∧ a < 0xC02 := by
  simp only [isStorage, Bool.and_eq_true, decide_eq_true_eq]
  rfl

/-- Byte `i` of a stored word is read at its place, where there is storage (R61). -/
theorem byteAt_putBytes_word {s : State} {a i : Nat} (hi : i < 4) (hs : 0x400 ≤ a ∧ a + i < 0xC02) (v : Word) :
    byteAt (putBytes a (bytesOf v) s) (a + i) = v.extractLsb' (8 * i) 8 := by
  rw [byteAt_of_writeAll_at (s := s) (bs := bytesOf v) rfl hi (isStorage_iff.mpr (by omega))]
  match i with
  | 0 | 1 | 2 | 3 => rfl

theorem byteAt_putBytes_outside {s : State} {a b : Nat} {bs : List Byte} (hb : b < a ∨ a + bs.length ≤ b) :
    byteAt (putBytes a bs s) b = byteAt s b :=
  byteAt_of_writeAll_outside (s := s) (t := putBytes a bs s) rfl rfl hb

/-- A word stored inside a buffer reads back. -/
theorem bufferWord_putBytes {s : State} {a : Nat} (ha : 0x400 ≤ a ∧ a + 3 < 0xC02) (v : Word) :
    bufferWord (putBytes a (bytesOf v) s) a = v := by
  have hbyte (i : Nat) (hi : i < 4) : byteAt (putBytes a (bytesOf v) s) (a + i) = v.extractLsb' (8 * i) 8 :=
    byteAt_putBytes_word hi (by omega) v
  rw [bufferWord, show byteAt _ a = _ from hbyte 0 (by decide), hbyte 1 (by decide), hbyte 2 (by decide),
    hbyte 3 (by decide)]
  exact wordOf_bytes v

/-- Of a word stored at 0xC00 the two bytes of `WIREBUF` read back (R48). -/
theorem lastWireWord_putBytes {s : State} (h : s.mem.wf = true) (v : Word) :
    readWord (putBytes 0xC00 (bytesOf v) s) 0xC00 = v &&& 0x0000FFFF := by
  have h0 : byteAt (putBytes 0xC00 (bytesOf v) s) 0xC00 = v.extractLsb' 0 8 :=
    byteAt_putBytes_word (i := 0) (by decide) (by decide) v
  have h1 : byteAt (putBytes 0xC00 (bytesOf v) s) 0xC01 = v.extractLsb' 8 8 :=
    byteAt_putBytes_word (i := 1) (by decide) (by decide) v
  rw [readWord_lastWireWord (putBytes_mem_wf h _ _), h0, h1]
  conv_rhs => rw [← wordOf_bytes v, show (0x0000FFFF : Word) = wordOf 0xFF 0xFF 0 0 by decide, wordOf_and_wordOf]
  have hkeep (b : Byte) : b = b &&& 0xFF := BitVec.and_allOnes.symm
  rw [← hkeep, ← hkeep]
  exact congrArg₂ (wordOf _ _ · ·) BitVec.and_zero.symm BitVec.and_zero.symm

/-- Settles O50: at 0xC00 the two bytes past `WIREBUF` hold no storage, before and after. -/
theorem bufferWordsReadBack : Obligations.BufferWordsReadBack := by
  intro s v a hr hb hmem halign
  refine ⟨fun ha => ?word, fun ha => ?lastWord⟩
  case word =>
    rw [hostWrite_of_buffer hr hb (by omega)]
    refine ⟨?_, byteAt_putBytes_word (i := 0) (by decide) (by omega) v, fun b hout => byteAt_putBytes_outside hout⟩
    rw [readWord_of_buffer (by simp only [txBase]; omega)]
    exact bufferWord_putBytes (by omega) v
  case lastWord =>
    subst ha
    rw [hostWrite_of_buffer hr hb (by omega)]
    refine ⟨lastWireWord_putBytes hmem v, fun b hout => ?_⟩
    by_cases hpast : b < 0xC00 ∨ 0xC00 + 4 ≤ b
    · exact byteAt_putBytes_outside hpast
    · have hnone : isStorage b = false := by
        rw [← Bool.not_eq_true, isStorage_iff]
        omega
      rw [byteAt_of_not_storage (putBytes_mem_wf hmem _ _) hnone, byteAt_of_not_storage hmem hnone]

/-- Settles O38: each row's guard names the states that carry it. -/
theorem rowsOutOfPlaceDoNothing : Obligations.RowsOutOfPlaceDoNothing := by
  intro s x y c d
  refine ⟨fun h1 h2 => ?mRrs, fun h1 h2 => ?mRrt, fun h1 h2 => ?mWr, fun h1 h2 => ?mSack, fun h1 h2 => ?mTrep,
    fun h1 h2 => ?mWack, fun h => ⟨?mWake, ?fFrame⟩⟩
  case mRrs => rw [exec, execMRrs, if_neg (by tauto)]
  case mRrt => rw [exec, execMRrt, if_neg (by tauto)]
  case mWr =>
    rw [exec, execMWr]
    split
    · contradiction
    · contradiction
    · rfl
  case mSack => rw [exec, execMSack, if_neg (by tauto)]
  case mTrep => rw [exec, execMTrep, if_neg (by tauto)]
  case mWack => rw [exec, execMWack, if_neg (by tauto)]
  case mWake => rw [exec, execMWake, if_neg h]
  case fFrame => rw [exec, execFFrame, if_neg h]

end Sys2Proof.Machine
end

section
/-! The host's port (20_memory.md R62, R67, R70, R71): which accesses are answered, and which reads are exact. -/
namespace Sys2Proof.Machine

open Sys2Proof

/-- Settles O55: the three tests of an access, in their order. -/
theorem improperAccessesRefused : Obligations.ImproperAccessesRefused := by
  intro s width a v
  refine ⟨fun hwidth => ⟨?readWidth, ?writeWidth⟩, fun halign => ⟨?readAlign, ?writeAlign⟩,
    fun halign hin => ⟨?read, ?write⟩⟩
  case readWidth | writeWidth => rw [hostAccess, if_pos hwidth]
  case readAlign | writeAlign => rw [hostAccess, if_neg (· rfl), if_pos halign]
  case read | write =>
    rw [hostAccess, if_neg (· rfl), if_neg (not_not.mpr halign), if_neg (Nat.not_le.mpr hin)]

/-- A read is exact where R70 does not leave it any value and reset does not leave it open (R71, R351). -/
theorem hostRead_of_exact {a : Nat} {s : State} (hu : readIsUnstable a s = false)
    (hr : s.resetIn = false ∨ exactInReset a = true) : hostRead a s = { s with rdata := readWord s a } := by
  obtain ⟨hu', -⟩ | ⟨-, hr', he', -⟩ | ⟨-, -, heq⟩ := hostRead_cases a s
  · rw [hu] at hu'; cases hu'
  · rw [hr', he'] at hr; simp at hr
  · exact heq

/-- The offsets of R70. -/
theorem unstableOffset_iff {a : Nat} : unstableOffset a = true ↔
    a = 0x014 ∨ a = 0x018 ∨ a = 0x01C ∨ a = 0x028 ∨ (0x600 ≤ a ∧ a < 0xC04) := by
  simp only [unstableOffset, Bool.or_eq_true, Bool.and_eq_true, beq_iff_eq, decide_eq_true_eq, or_assoc]
  unfold rxBase
  rfl

/-- Settles O51: `STATUS` is stable and exact in reset; outside reset a read is inexact only while BUSY, and then only
at the offsets of R70. -/
theorem hostReadsArePure : Obligations.HostReadsArePure := by
  intro s a
  refine ⟨hostRead_eq a s, hostRead_of_exact (readIsUnstable_of_stable rfl) (.inr rfl),
    fun hr hb => hostRead_of_exact (readIsUnstable_of_not_busy hb) (.inl hr), fun hr ha => ?stable⟩
  case stable =>
    refine hostRead_of_exact (readIsUnstable_of_stable ?_) (.inl hr)
    rw [← Bool.not_eq_true, unstableOffset_iff]
    omega

end Sys2Proof.Machine
end

section
/-! The link's two directions: a receive takes draws from the front and stores the bytes (R73, R182), and what has left
stays out (R70, R180, R342). -/
namespace Sys2Proof.Machine

open Sys2Proof

/-! ### Inbound -/

/-- The reception loop takes its bytes from the front of the draws, and past them at most a timeout (R73, R182). -/
theorem collect_takes_front (term : Byte) (room n : Nat) (q : List RxDraw) :
    ∃ tail, q = arriving (collect term room n q).1 ++ tail ∧
      (tail = (collect term room n q).2.1 ∨ tail = .timeout :: (collect term room n q).2.1) := by
  obtain ⟨-, hended, htimeout⟩ := collect_spec term room n q
  cases hend : (collect term room n q).2.2
  case true => exact ⟨_, hended hend, .inl rfl⟩
  case false =>
    obtain ⟨hall, hnone⟩ | hcut := htimeout hend
    · exact ⟨[], by rw [List.append_nil]; exact hall, .inl hnone.symm⟩
    · exact ⟨_, hcut, .inr rfl⟩

/-- Whatever `RxFrame` answers, the memory, the lengths and the link are as the reception left them: recording the
header, decoding and the mode check change none of them (R182). -/
theorem rxFrame_leaves {l : Nat} {mode : RxMode} {s t : State} {r : Except Cause (List Byte)}
    (h : rxFrame l mode s = (r, t)) :
    let c := collect s.cfg.val.terminator (wireWindow l) 0 s.link.rx
    t.mem = s.mem.writeAll wireBase c.1 ∧ t.wlen = BitVec.ofNat 11 c.1.length ∧ t.rxCount = c.1.length ∧
      t.link.rx = c.2.1 := by
  obtain ⟨-, heq⟩ | ⟨-, e, heq, -⟩ | ⟨-, hdr, out, -, -, heq⟩ := rxFrame_cases l mode s
  all_goals
    rw [heq] at h
    cases h
    exact ⟨rfl, rfl, rfl, rfl⟩

/-- Settles O12: the bytes are those the reception loop took; they fit `WIREBUF`, and their count fits `WLEN`. -/
theorem unconsumedBytesStay : Obligations.UnconsumedBytesStay := by
  intro l mode s t r hl h
  obtain ⟨hmem, hwlen, hcount, hrx⟩ := rxFrame_leaves h
  obtain ⟨tail, hfront, htail⟩ := collect_takes_front s.cfg.val.terminator (wireWindow l) 0 s.link.rx
  have hroom := (collect_spec s.cfg.val.terminator (wireWindow l) 0 s.link.rx).1
  rw [wireWindow] at hroom hmem hwlen hcount hrx hfront htail
  refine ⟨_, tail, hfront, hrx ▸ htail, hcount.symm, ?wlen, bytesAt_of_writeAll hmem fun i hi => ?stored⟩
  case wlen =>
    rw [hwlen, BitVec.toNat_ofNat]
    exact Nat.mod_eq_of_lt (by omega)
  case stored =>
    rw [isStorage_iff]
    omega

/-! ### Outbound -/

/-- A TX state's action only appends to the outbound stream (R180). -/
theorem transmit_out {next : State → State} (hnext : ∀ t, (next t).link = t.link) (fcmd : Nibble) (d : List Byte)
    (s : State) : s.link.out <+: (transmit fcmd d next s).link.out := by
  obtain ⟨l, -, -, hout, heq | heq⟩ := transmit_cases fcmd d next s <;> rw [heq]
  · rw [hnext]
    exact hout
  · exact hout

/-- An RX state's action puts nothing on the outbound stream (R182). -/
theorem receive_out {next : List Byte → State → State} (hnext : ∀ out t, (next out t).link = t.link) (l : Nat)
    (mode : RxMode) (s : State) : (receive l mode next s).link.out = s.link.out := by
  obtain ⟨-, heq⟩ | ⟨-, e, heq, -⟩ | ⟨-, hdr, out, -, -, heq⟩ := receive_cases l mode next s <;> rw [heq]
  case inr.inr => rw [hnext]; rfl
  all_goals rfl

theorem receiveSack_out (s : State) : (receiveSack s).link.out = s.link.out :=
  receive_out (fun _ => advance_link) _ _ s

theorem receiveTrep_out (len : Byte) (s : State) : (receiveTrep len s).link.out = s.link.out :=
  receive_out (fun _ _ => by split <;> rfl) _ _ s

theorem receiveWack_out (s : State) : (receiveWack s).link.out = s.link.out :=
  receive_out (fun _ _ => by dsimp only; split <;> rfl) _ _ s

theorem recvRx_out (s : State) : (recvRx s).link.out = s.link.out := by
  refine receive_out ?_ _ _ s
  exact fun _ _ => rfl

/-- The states that check, encode or decode do not touch the link (R112, R162, R163, R243). -/
theorem checkArgs_link (s : State) : (checkArgs s).link = s.link := by
  obtain ⟨x, heq⟩ | heq | heq | heq := checkArgs_cases s <;> rw [heq] <;> rfl

theorem psCheck_link (s : State) : (psCheck s).link = s.link := by
  obtain ⟨-, heq⟩ | ⟨-, -, heq⟩ | ⟨-, -, heq⟩ := psCheck_spec s <;> rw [heq] <;> rfl

theorem decRun_link (s : State) : (decRun s).link = s.link := by
  obtain ⟨-, out, -, heq⟩ | ⟨e, -, heq⟩ := decRun_spec s <;> rw [heq] <;> rfl

/-- One FSM step only appends to the outbound stream: the TX states by their frame, the others not at all. -/
theorem fsmStep_out (s : State) : s.link.out <+: (fsmStep s).link.out := by
  cases hs : s.fsm <;> simp only [fsmStep, hs]
  case idle | faulted | encRun => exact List.prefix_rfl
  case decRun => rw [decRun_link]
  case checkArgs => rw [checkArgs_link]
  case psCheck => rw [psCheck_link]
  case sendTx => exact transmit_out (next := fun t => complete (clearTracking t)) (fun _ => rfl) _ _ s
  case rrSetupTx | rrTrigTx | psRdSetupTx | psRdTrigTx => exact transmit_out advance_link _ _ s
  case wrTx => exact transmit_out advance_link _ _ (clearForWrite s.reg s)
  case psWrTx => exact transmit_out advance_link _ _ (clearSpace s.spacel s)
  case recvRx => rw [recvRx_out]
  case rrSetupRx => rw [rrSetupRx, receiveSack_out]
  case psRdSetupRx => rw [psRdSetupRx, receiveSack_out]
  case rrTrigRx => rw [rrTrigRx, receiveTrep_out]
  case psRdTrigRx => rw [psRdTrigRx, receiveTrep_out]
  case wrRx => rw [wrRx, receiveWack_out]
  case psWrRx => rw [psWrRx, receiveWack_out]

theorem storeOperand_link (a : Nat) (v : Word) (s : State) : (storeOperand a v s).link = s.link := by
  obtain ⟨_, _, _, _, heq, -⟩ := storeOperand_eq a v s
  rw [heq]

theorem hostRead_link (a : Nat) (s : State) : (hostRead a s).link = s.link := by
  obtain ⟨_, _, heq⟩ := hostRead_eq a s
  rw [heq]

/-- The partner takes the outbound bytes as they are: it decides answers only (R6). -/
theorem partnerStep_out (act : PartnerAct) (s : State) : (partnerStep act s).link.out = s.link.out := by
  cases act <;> rfl

/-- Reset discards inbound bytes alone (R342, R343). -/
theorem releaseReset_out (s : State) : (releaseReset s).link.out = s.link.out := by
  unfold releaseReset
  split <;> rfl

/-- An assertion of reset lets a prefix of the frame in transmission leave first (R342). -/
theorem assertReset_out (j : Nat) (s : State) :
    (assertReset j s).link.out = s.link.out ++ (frameInTx s).take j := rfl

theorem keptOutsideReset_out (ws : List Byte) : KeptOutsideReset (ws <+: ·.link.out) where
  sched _ _ h := h
  fsmStep s h := h.trans (fsmStep_out s)
  accept _ _ _ _ _ _ h := h
  drop _ h := h
  storeOperand s a v _ _ h := by rwa [storeOperand_link]
  hostRead s a h := by rwa [hostRead_link]
  partner s act h := by rwa [partnerStep_out]

/-- Settles O48: the edges of the reset input included. -/
theorem outboundStreamGrows : Obligations.OutboundStreamGrows := fun s _ ht =>
  (keptOutsideReset_out s.link.out).step List.prefix_rfl ht
    (fun j l _ => (assertReset_out j { s with sched := l }).symm ▸ List.prefix_append _ _)
    fun l _ => (releaseReset_out { s with sched := l }).symm ▸ List.prefix_rfl

end Sys2Proof.Machine
end

section
/-! The encodings round trip (R80 to R92): a host command word field by field, the cipher's pairs (R134, R138), a frame
and its parts (R87, R89, R150), and the outbound messages (R82 to R86). -/
namespace Sys2Proof.Machine

open Sys2Proof

/-- A search answers the one element of the list that passes the test. -/
theorem find?_eq_some_of_unique {α : Type} {l : List α} {p : α → Bool} {a : α} (ha : a ∈ l) (hp : p a = true)
    (huniq : ∀ b ∈ l, p b = true → b = a) : l.find? p = some a := by
  cases hf : l.find? p with
  | none => exact absurd hp (List.find?_eq_none.mp hf a ha)
  | some b => rw [huniq b (List.mem_of_find?_eq_some hf) (List.find?_some hf)]

/-! ### Host command words -/

/-- A command word's fields (R80): it is what `CMD` reads back (R36). -/
theorem commandWord_layout (op : BitVec 4) (sp : BitVec 1) (fc : Nibble) :
    (commandWord op sp fc).extractLsb' 0 4 = op ∧ (commandWord op sp fc).extractLsb' 4 1 = sp ∧
      (commandWord op sp fc).extractLsb' 8 4 = fc := by
  obtain ⟨hop, hsp, -, hfc, -⟩ := cmdWord_layout { State.reset with opl := op, spacel := sp, fcmdl := fc }
  exact ⟨hop, hsp, hfc⟩

/-- The decoder reads three fields of a command word and no other bit (R80, R90). -/
theorem decodeCommand_congr {v w : Word} (hop : v.extractLsb' 0 4 = w.extractLsb' 0 4)
    (hsp : v.extractLsb' 4 1 = w.extractLsb' 4 1) (hfc : v.extractLsb' 8 4 = w.extractLsb' 8 4) :
    decodeCommand v = decodeCommand w := by
  unfold decodeCommand
  rw [hop, hsp, hfc]

/-- A field under a mask that covers it is the word's own. -/
theorem extractLsb'_and_of_covered {m : Word} {i n : Nat} (hm : m.extractLsb' i n = BitVec.allOnes n) (v : Word) :
    (v &&& m).extractLsb' i n = v.extractLsb' i n := by
  rw [BitVec.extractLsb'_and, hm, BitVec.and_allOnes]

/-- Every host command decodes from its own word (R80, R81, R90). -/
theorem decodeCommand_commandWord {i : Instr} {op : BitVec 4} {sp : BitVec 1} {fc : Nibble}
    (hi : commandOf i = some (op, sp, fc)) : decodeCommand (commandWord op sp fc) = i := by
  obtain ⟨hop, hsp, hfc⟩ := commandWord_layout op sp fc
  unfold decodeCommand
  rw [hop, hsp, hfc]
  cases i <;> cases hi <;> rfl

/-- A host command is encoded as the word of its operation and fields (R80, R81). -/
theorem encode_of_commandOf {i : Instr} {op : BitVec 4} {sp : BitVec 1} {fc : Nibble}
    (hi : commandOf i = some (op, sp, fc)) (c : Config) : encode c i = .command (commandWord op sp fc) := by
  cases i <;> cases hi <;> rfl

/-! ### The cipher -/

/-- R131 `injective`, as a statement about any record. -/
theorem symbol_inj {c : Config} (hc : c.injective = true) {a b : Nibble} (h : c.symbol a = c.symbol b) :
    a = b := by
  simp only [Config.injective, List.all_eq_true] at hc
  simpa [h] using hc a (mem_nibbles a) b (mem_nibbles b)

/-- The reverse table gives back the nibble of a symbol (R134). -/
theorem reverse_symbol {c : Config} (hc : c.injective = true) (n : Nibble) : reverse c (c.symbol n) = some n :=
  find?_eq_some_of_unique (mem_nibbles n) (beq_self_eq_true _)
    fun _ _ hb => symbol_inj hc (eq_of_beq hb)

/-- The lanes of a byte make the byte again (R135). -/
theorem joinNibbles_lanes (b : Byte) : joinNibbles (loNibble b) (hiNibble b) = b := by
  unfold joinNibbles loNibble hiNibble
  rw [BitVec.extractLsb'_append_extractLsb'_eq_extractLsb' (show 4 = 0 + 4 from rfl)]
  exact BitVec.extractLsb'_eq_self

/-- A byte survives encoding and decoding (R138). -/
theorem decPair_lanes {c : Config} (hc : c.injective = true) (b : Byte) :
    decPair c (c.symbol (loNibble b)) (c.symbol (hiNibble b)) = some b := by
  simp only [decPair, reverse_symbol hc, joinNibbles_lanes]

/-- And so does a byte string (R155). -/
theorem decodePairs_flatMap_encPair {c : Config} (hc : c.injective = true) (d : List Byte) :
    decodePairs c (d.flatMap (encPair c)) = some d := by
  induction d with
  | nil => rfl
  | cons b d ih =>
    simp only [List.flatMap_cons, encPair, List.cons_append, List.nil_append, decodePairs, decPair_lanes hc, ih]

/-- R131 `injective`, of an admitted record. -/
theorem params_injective (p : Params) : p.val.injective = true := by
  obtain ⟨-, -, -, -, h, -⟩ := Params.checks p
  exact h

/-! ### Frames -/

/-- An outbound frame is shaped as a reply is, its header that of the frame command (R89, R150). -/
theorem encodeFrame_eq_replyFrame (c : Config) (k : Nibble) (d : List Byte) :
    encodeFrame c k d = replyFrame c (header c k) d := rfl

theorem replyFrame_length (c : Config) (h : Byte) (d : List Byte) : (replyFrame c h d).length = 2 * d.length + 2 := by
  rw [replyFrame, List.length_cons, List.length_append, flatMap_encPair_length, List.length_singleton]

@[simp] theorem replyFrame_headD (c : Config) (h : Byte) (d : List Byte) : (replyFrame c h d).headD 0 = h := rfl

@[simp] theorem replyFrame_getLast? (c : Config) (h : Byte) (d : List Byte) :
    (replyFrame c h d).getLast? = some c.terminator := by
  rw [replyFrame, ← List.cons_append, List.getLast?_concat]

@[simp] theorem frameData_replyFrame (c : Config) (h : Byte) (d : List Byte) :
    frameData (replyFrame c h d) = d.flatMap (encPair c) := by
  rw [frameData, replyFrame, List.drop_one, List.tail_cons, List.dropLast_concat]

/-- A frame whose header passes its two checks decodes to its header and its bytes (R155). -/
theorem decodeFrame_replyFrame (p : Params) {h : Byte} {n : Nibble} (hh : goodHeader p.val h n) (d : List Byte) :
    decodeFrame p.val (replyFrame p.val h d) = .ok (n, d) := by
  obtain ⟨hdec, hsent⟩ := hh
  have hlen := replyFrame_length p.val h d
  rw [decodeFrame, if_neg (by omega), if_neg (by omega), if_neg (not_not.mpr (replyFrame_getLast? ..))]
  simp only [replyFrame_headD, hdec, hsent, if_true, frameData_replyFrame,
    decodePairs_flatMap_encPair (params_injective p)]

/-- Settles O10. -/
theorem replyFramesDecode : Obligations.ReplyFramesDecode :=
  fun p _ _ d hh => decodeFrame_replyFrame p hh d

/-- Bit 3 of a frame command never reaches the header (R88, R91). -/
theorem header_and_seven (c : Config) (k : Nibble) : header c (k &&& 7) = header c k := by
  have hindex : ∀ k : Nibble, headerIndex (k &&& 7) = headerIndex k := by decide
  rw [header, hindex, header]

theorem and_seven_mem_headerCommands : ∀ k : Nibble, k &&& 7 ∈ headerCommands := by decide

/-- A frame decodes to its command without bit 3, and to its bytes (R87, R91). -/
theorem decodeWire_encodeFrame (p : Params) (hd : headersDistinct p.val) (k : Nibble) (d : List Byte) :
    decodeWire p.val (encodeFrame p.val k d) = .ok (.fFrame (k &&& 7) d) := by
  have hlen := replyFrame_length p.val (header p.val k) d
  have hcmd : headerCommands.find? (fun j => header p.val j == header p.val k) = some (k &&& 7) := by
    have hmem := and_seven_mem_headerCommands k
    have hsame := header_and_seven p.val k
    exact find?_eq_some_of_unique hmem (beq_iff_eq.mpr hsame)
      fun j hj hjk => hd j hj _ hmem ((eq_of_beq hjk).trans hsame.symm)
  rw [encodeFrame_eq_replyFrame, decodeWire, if_neg (by omega), if_neg (not_not.mpr (replyFrame_getLast? ..)),
    replyFrame_headD, hcmd]
  simp only [frameData_replyFrame, decodePairs_flatMap_encPair (params_injective p)]

/-! ### Messages -/

theorem decodeMessage_wake (c : Config) : decodeMessage c wakeMessage = .ok .mWake := if_pos rfl

theorem rrsBytes_take (c : Config) (len r : Byte) : (rrsBytes c len r).take 5 = c.rrSetupPrefix.toList :=
  List.take_left' c.rrSetupPrefix.length_toList

theorem rrsBytes_length (c : Config) (len r : Byte) : (rrsBytes c len r).length = 7 := by
  simp [rrsBytes]

theorem rrtBytes_length (c : Config) (len : Byte) : (rrtBytes c len).length = 3 := by
  simp [rrtBytes]

theorem wrBytes_take (c : Config) (r : Byte) (d : List Byte) : (wrBytes c r d).take 3 = c.wrPrefix.toList := by
  rw [wrBytes, List.append_assoc]
  exact List.take_left' c.wrPrefix.length_toList

theorem wrBytes_length (c : Config) (r : Byte) (d : List Byte) : (wrBytes c r d).length = d.length + 5 := by
  simp [wrBytes]; omega

/-- Byte 3 of M-WR (R84). -/
theorem wrBytes_three (c : Config) (r : Byte) (d : List Byte) :
    (wrBytes c r d).getD 3 0 = BitVec.ofNat 8 (d.length + 1) := by
  simp [wrBytes]

/-- M-RRS decodes (R82): it is no M-WAKE under a record that tells the two apart. -/
theorem decodeMessage_rrsBytes {c : Config} (hd : messagesDistinct c) (len r : Byte) :
    decodeMessage c (rrsBytes c len r) = .ok (.mRrs len r) := by
  have hwake : rrsBytes c len r ≠ wakeMessage := fun h => hd.2 (by rw [← rrsBytes_take c len r, h])
  rw [decodeMessage, if_neg hwake, if_pos ⟨rrsBytes_take c len r, rrsBytes_length c len r⟩]
  simp [rrsBytes]

/-- M-RRT decodes (R83): no other message has three bytes. -/
theorem decodeMessage_rrtBytes (c : Config) (len : Byte) :
    decodeMessage c (rrtBytes c len) = .ok (.mRrt len) := by
  have hlen := rrtBytes_length c len
  have hwake : rrtBytes c len ≠ wakeMessage := fun h => by rw [h] at hlen; cases hlen
  rw [decodeMessage, if_neg hwake, if_neg (by omega), if_pos ⟨List.take_left' c.rrTrigPrefix.length_toList, hlen⟩]
  simp [rrtBytes]

/-- M-WR is no M-WAKE: of seven bytes it has a byte 3 of 3, and the wake message a 0 (R84, R86). -/
theorem wrBytes_ne_wakeMessage (c : Config) (r : Byte) (d : List Byte) : wrBytes c r d ≠ wakeMessage := by
  intro h
  have hthree := wrBytes_three c r d
  have hlen := wrBytes_length c r d
  rw [h] at hthree hlen
  have hd : d.length = 2 := by simpa [wakeMessage] using hlen.symm
  rw [hd] at hthree
  exact absurd hthree (by decide)

/-- The length of an M-WR's data fits byte 3 (R84). -/
theorem wrCount_toNat {d : List Byte} (h : d.length ≤ mWrMax) :
    (BitVec.ofNat 8 (d.length + 1) : Byte).toNat = d.length + 1 := by
  rw [mWrMax] at h
  rw [BitVec.toNat_ofNat]
  exact Nat.mod_eq_of_lt (by omega)

/-- M-WR decodes (R84), under a record that tells it from M-RRS. -/
theorem decodeMessage_wrBytes {c : Config} (hd : messagesDistinct c) (r : Byte) {d : List Byte}
    (h : d.length ≤ mWrMax) : decodeMessage c (wrBytes c r d) = .ok (.mWr r d) := by
  have hlen := wrBytes_length c r d
  have htake := wrBytes_take c r d
  have hrrs : (wrBytes c r d).take 5 ≠ c.rrSetupPrefix.toList := fun h5 => hd.1 <| by
    rw [← h5, List.take_take, ← htake]
    rfl
  have hcount : ((wrBytes c r d).getD 3 0).toNat - 1 = (wrBytes c r d).length - 5 := by
    rw [wrBytes_three, wrCount_toNat h, hlen]
    omega
  rw [decodeMessage, if_neg (wrBytes_ne_wakeMessage c r d), if_neg (fun h5 => hrrs h5.1), if_neg (by omega),
    if_pos ⟨htake, by omega, by omega, hcount⟩]
  simp [wrBytes, List.getElem?_append, List.drop_append]

/-! ### The statements -/

/-- Settles O2: level by level, the host commands by their words, the messages by their bytes, the replies by what was
sent before, the frame by its header and its pairs. -/
theorem encodeDecodeAgree : Obligations.EncodeDecodeAgree := by
  intro p i hmsg hhdr hwf
  rcases hi : commandOf i with _ | ⟨op, sp, fc⟩
  case some =>
    rw [encode_of_commandOf hi, decode, decodeCommand_commandWord hi]
    split
    · cases hi
    · rfl
  case none =>
    cases i <;> simp only [commandOf, reduceCtorEq] at hi
    case mRrs len r => exact decodeMessage_rrsBytes hmsg len r
    case mRrt len => exact decodeMessage_rrtBytes p.val len
    case mWr r d => exact decodeMessage_wrBytes hmsg r (of_decide_eq_true hwf)
    case mWake => exact decodeMessage_wake p.val
    case mSack | mTrep | mWack => rfl
    case fFrame k d => exact decodeWire_encodeFrame p hhdr k d

/-- Settles O1. -/
theorem tabledWordsDecode : Obligations.TabledWordsDecode := by
  and_intros <;> rfl

/-- Settles O3: the mask covers the three fields the decoder reads, and the header's index drops bit 3. -/
theorem ignoredEncodingBits : Obligations.IgnoredEncodingBits := by
  refine ⟨fun v w h => ?command, fun c k d => ?frame⟩
  case command =>
    have hfield {i n : Nat} (hm : (0x00000F1F : Word).extractLsb' i n = BitVec.allOnes n) :
        v.extractLsb' i n = w.extractLsb' i n := by
      rw [← extractLsb'_and_of_covered hm v, h, extractLsb'_and_of_covered hm]
    exact decodeCommand_congr (hfield (by decide)) (hfield (by decide)) (hfield (by decide))
  case frame =>
    have hdrop : ∀ k : Nibble, k + 8 &&& 7 = k &&& 7 := by decide
    have hheader : header c (k + 8) = header c k := by
      rw [← header_and_seven, hdrop, header_and_seven]
    exact ⟨hheader, by rw [encodeFrame, hheader, encodeFrame]⟩

/-- Settles O4. -/
theorem messageBytesAsTabled : Obligations.MessageBytesAsTabled :=
  ⟨fun _ _ => rfl, fun _ => rfl, fun _ _ h => ⟨rfl, wrCount_toNat h⟩⟩

end Sys2Proof.Machine
end

section
/-! The rows of the messages and the frame where the link does its part (R82 to R87): a transmit that succeeds, and a
reply of the partner received whole (R89, R182). -/
namespace Sys2Proof.Machine

open Sys2Proof

/-! ### Transmitted -/

/-- The next transmit succeeds: its answer is ok, or none is held, which is ok too (R180). -/
theorem txSucceeds_one_iff {s : State} : txSucceeds 1 s ↔ s.link.tx = [] ∨ s.link.tx.head? = some .ok := by
  cases h : s.link.tx <;> simp [txSucceeds, h]

/-- A message that leaves, from a state whose follower is known (R211, R213, R218, R242). -/
theorem transmit_advance_of_txSucceeds {s : State} (h : txSucceeds 1 s) {x : FsmState}
    (hx : followState s.fsm = x) (fcmd : Nibble) (d : List Byte) :
    transmit fcmd d advance s =
      { s with
        fsm := x
        txf := encodeFrame s.cfg.val fcmd d
        link := { s.link with
          tx := s.link.tx.drop 1
          out := s.link.out ++ encodeFrame s.cfg.val fcmd d } } := by
  rw [transmit_ok fcmd d advance s (txSucceeds_one_iff.mp h), ← hx]
  rfl

/-- Settles O31. -/
theorem readMessagesTransmitted : Obligations.ReadMessagesTransmitted := by
  intro s len r htx
  refine ⟨fun hs => ?mRrs, fun hs => ?mRrt⟩
  case mRrs =>
    rw [exec, execMRrs, if_pos hs]
    refine congrArg _ (transmit_advance_of_txSucceeds htx ?_ _ _)
    obtain hs | hs := hs <;> rw [hs] <;> rfl
  case mRrt =>
    rw [exec, execMRrt, if_pos hs]
    refine congrArg _ (transmit_advance_of_txSucceeds htx ?_ _ _)
    obtain hs | hs := hs <;> rw [hs] <;> rfl

/-- Settles O32: the tracking is cleared in the state that the transmit starts from. -/
theorem writeMessageTransmitted : Obligations.WriteMessageTransmitted := by
  intro s r d htx
  refine ⟨fun hs => ?wrTx, fun hs => ?psWrTx⟩
  case wrTx =>
    have hx : followState (clearForWrite r s).fsm = .wrRx := congrArg followState hs
    simp only [exec, execMWr, hs]
    exact congrArg _ (transmit_advance_of_txSucceeds (s := clearForWrite r s) htx hx _ _)
  case psWrTx =>
    have hx : followState (clearSpace s.spacel s).fsm = .psWrRx := congrArg followState hs
    simp only [exec, execMWr, hs]
    exact congrArg _ (transmit_advance_of_txSucceeds (s := clearSpace s.spacel s) htx hx _ _)

/-- SEND_TX where the transmit succeeds (R186, R189). -/
theorem sendFrame_of_txSucceeds {s : State} (h : txSucceeds 1 s) (fcmd : Nibble) (d : List Byte) :
    sendFrame fcmd d s =
      { s with
        fsm := .idle
        done := true
        mainValid := false
        subValid := false
        txf := encodeFrame s.cfg.val fcmd d
        link := { s.link with
          tx := s.link.tx.drop 1
          out := s.link.out ++ encodeFrame s.cfg.val fcmd d } } :=
  transmit_ok fcmd d _ s (txSucceeds_one_iff.mp h)

/-- Settles O33. -/
theorem sendRowsTransmitted : Obligations.SendRowsTransmitted := by
  intro s c d htx hs
  refine ⟨?mWake, ?fFrame⟩
  case mWake =>
    rw [exec, execMWake, if_pos hs]
    exact congrArg _ (sendFrame_of_txSucceeds htx _ _)
  case fFrame =>
    rw [exec, execFFrame, if_pos hs]
    exact congrArg _ (sendFrame_of_txSucceeds htx _ _)

/-! ### Received -/

/-- Past the header, the reception takes bytes up to the first terminator, given the room (R182). -/
theorem collect_terminated {term : Byte} (rest : List RxDraw) (ws : List Byte) (hws : term ∉ ws) :
    ∀ {room n : Nat}, ws.length < room → 1 ≤ n →
      collect term room n (arriving (ws ++ [term]) ++ rest) = (ws ++ [term], rest, true) := by
  induction ws with
  | nil =>
    intro room n hroom hn
    obtain ⟨room, rfl⟩ := Nat.exists_eq_succ_of_ne_zero (Nat.ne_of_gt hroom)
    exact if_pos ⟨hn, rfl⟩
  | cons b ws ih =>
    intro room n hroom hn
    obtain ⟨hb, hws⟩ := not_or.mp (mt List.mem_cons.mpr hws)
    obtain ⟨room, rfl⟩ := Nat.exists_eq_succ_of_ne_zero (Nat.ne_of_gt (Nat.zero_lt_of_lt hroom))
    have htail := ih hws (Nat.lt_of_succ_lt_succ hroom) (Nat.le_succ_of_le hn)
    have hstep : collect term (room + 1) n (arriving (b :: ws ++ [term]) ++ rest) = _ :=
      if_neg (fun h => hb h.2.symm)
    rw [hstep]
    exact congrArg (fun r => (b :: r.1, r.2)) htail

/-- The data positions of a frame hold no terminator (R154). -/
theorem terminator_not_mem_data (p : Params) (d : List Byte) : p.val.terminator ∉ d.flatMap (encPair p.val) := by
  intro h
  obtain ⟨b, -, hb⟩ := List.mem_flatMap.mp h
  obtain hb | hb : p.val.terminator = _ ∨ p.val.terminator = _ := by simpa [encPair] using hb
  all_goals exact Params.symbol_ne_terminator p _ hb.symm

/-- A reply that fits the window is taken whole, whatever its header byte is, and what follows it stays (R73, R182). -/
theorem collect_replyFrame (p : Params) (h : Byte) {d : List Byte} {l : Nat} (hl : d.length ≤ l)
    (rest : List RxDraw) :
    collect p.val.terminator (wireWindow l) 0 (arriving (replyFrame p.val h d) ++ rest)
      = (replyFrame p.val h d, rest, true) := by
  have htail := collect_terminated rest _ (terminator_not_mem_data p d) (room := 2 * l + 1) (n := 1)
    (by rw [flatMap_encPair_length]; omega) (Nat.le_refl 1)
  have hstep : collect p.val.terminator (2 * l + 2) 0 (arriving (replyFrame p.val h d) ++ rest) = _ :=
    if_neg (fun h => Nat.not_succ_le_zero 0 h.1)
  rw [wireWindow, hstep]
  exact congrArg (fun r => (h :: r.1, r.2)) htail

/-- What the reception of a reply leaves: its bytes in `WIREBUF`, their count, its header, and the rest on the link
(R155, R182). -/
def afterReply (w : List Byte) (n : Nibble) (rest : List RxDraw) (s : State) : State :=
  { s with
    mem := s.mem.writeAll wireBase w
    wlen := BitVec.ofNat 11 w.length
    rxCount := w.length
    timerFired := false
    rxhdrV := true
    rxhdr := n
    link := { s.link with rx := rest, arrived := s.link.arrived - w.length } }

/-- A reply of the partner that fits the receive and passes its mode's check is received (R182, R184). -/
theorem receive_replyFrame {s : State} {h : Byte} {n : Nibble} {d : List Byte} {rest : List RxDraw} {l : Nat}
    {mode : RxMode} (hh : goodHeader s.cfg.val h n) (hl : d.length ≤ l)
    (hmode : modeCheck l mode d.length = none)
    (hrx : s.link.rx = arriving (replyFrame s.cfg.val h d) ++ rest) (next : List Byte → State → State) :
    receive l mode next s = next d (afterReply (replyFrame s.cfg.val h d) n rest s) := by
  have hcol := collect_replyFrame s.cfg h hl rest
  rw [← hrx] at hcol
  have hcount : s.link.rx.length - rest.length = (replyFrame s.cfg.val h d).length := by
    rw [hrx, List.length_append, arriving, List.length_map]
    omega
  have hstate : recordHeader (replyFrame s.cfg.val h d) (afterCollect (replyFrame s.cfg.val h d, rest, true) s)
      = afterReply (replyFrame s.cfg.val h d) n rest s := by
    have hx : headerExtract s.cfg.val h = (true, n) := by rw [headerExtract, hh.1]
    simp only [recordHeader, afterCollect, afterReply, replyFrame, hx] at hcount ⊢
    rw [hcount]
    rfl
  simp only [receive, rxFrame, hcol, if_true, decodeFrame_replyFrame s.cfg hh, hmode, hstate]

/-- EXACT takes a reply of the length asked for (R184). -/
theorem receive_exact_replyFrame {s : State} {h : Byte} {n : Nibble} {d : List Byte} {rest : List RxDraw} {l : Nat}
    (hh : goodHeader s.cfg.val h n) (hl : d.length = l)
    (hrx : s.link.rx = arriving (replyFrame s.cfg.val h d) ++ rest) (next : List Byte → State → State) :
    receive l .exact next s = next d (afterReply (replyFrame s.cfg.val h d) n rest s) :=
  receive_replyFrame (mode := .exact) hh hl.le (if_pos hl) hrx next

/-- Settles O35: the empty reply is two wire bytes. -/
theorem setupAcknowledgeReceived : Obligations.SetupAcknowledgeReceived := by
  intro s h n rest hs hh hrx
  have hnext : followState s.fsm = if s.fsm = .rrSetupRx then .rrTrigTx else .psRdTrigTx := by
    obtain hs | hs := hs <;> rw [hs] <;> rfl
  rw [exec, execMSack, if_pos hs, receiveSack, receive_replyFrame hh (Nat.zero_le _) rfl hrx, ← hnext]
  rfl

/-- Settles O36: the reply is one byte longer than its payload, and that byte is the status. -/
theorem triggerReplyReceived : Obligations.TriggerReplyReceived := by
  intro s len h n payload st rest hs hh hlen hrx
  have hdata : (payload ++ [st]).length = len.toNat + 1 := by
    rw [List.length_append, hlen, List.length_singleton]
  have hwire : (replyFrame s.cfg.val h (payload ++ [st])).length = 2 * len.toNat + 4 := by
    rw [replyFrame_length, hdata]
    omega
  have hstatus : (payload ++ [st]).getD len.toNat 0 = st := by
    rw [← hlen, List.getD_append_right _ _ _ _ (Nat.le_refl _), Nat.sub_self]
    rfl
  rw [exec, execMTrep, if_pos hs, receiveTrep, receive_exact_replyFrame hh hdata hrx, afterReply, hwire]
  obtain hs | hs := hs
  case inl =>
    simp only [storeReply, hstatus, hs, if_true, beq_self_eq_true, Bool.or_true]
    rfl
  case inr =>
    have hbeq : (s.fsm == .rrTrigRx) = false := by rw [hs]; rfl
    rw [hbeq, Bool.or_false]
    simp only [storeReply, hstatus, hs, reduceCtorEq, if_false]
    rfl

/-- Settles O37: the acknowledge is its first byte. -/
theorem writeAcknowledgeReceived : Obligations.WriteAcknowledgeReceived := by
  intro s h n a more rest hh hlen hrx
  have hwire : (replyFrame s.cfg.val h (a :: more)).length = 2 * s.cfg.val.wrAckLen + 2 := by
    rw [replyFrame_length, List.length_cons, hlen]
  refine ⟨fun hs => ?wrRx, fun hs => ?psWrRx⟩
  case wrRx =>
    rw [exec, execMWack, if_pos (.inl hs), receiveWack, receive_exact_replyFrame (d := a :: more) hh hlen hrx,
      afterReply, hwire]
    simp only [hs]
    rfl
  case psWrRx =>
    rw [exec, execMWack, if_pos (.inr hs), receiveWack, receive_exact_replyFrame (d := a :: more) hh hlen hrx,
      afterReply, hwire]
    simp only [hs]
    rfl

end Sys2Proof.Machine
end

section
/-! The requests that use no link: the reserved operations (R90), ENC and DEC (R162, R163). -/
namespace Sys2Proof.Machine

open Sys2Proof

/-! ### The reserved operations -/

/-- A reserved operation's request is the argument check alone (R90, R112). -/
theorem exec_reserved {i : Instr} {op : BitVec 4} {sp : BitVec 1} {fc : Nibble}
    (hi : commandOf i = some (op, sp, fc)) (hop : op = 0 ∨ 8 ≤ op.toNat) (s : State) :
    exec i s = .next (command op sp fc (phase .checkArgs checkArgs) s) := by
  cases i <;> cases hi
  case enc | dec | send | recv | readReg | writeReg | selectPage => exact absurd hop (by decide)
  all_goals rfl

/-- CHECK_ARGS refuses a reserved operation (R112). -/
theorem checkArgs_reserved {s : State} (h : s.opl = 0 ∨ 8 ≤ s.opl.toNat) : checkArgs s = raise .reservedOp s := by
  unfold checkArgs
  split
  case h_8 => rfl
  all_goals
    rename_i hop
    obtain h0 | h8 := h
    · rw [h0] at hop; cases hop
    · omega

/-- BADREQ leaves the tracked pages as they are, and so does any error of an operation without link traffic (R249). -/
theorem invalidates_eq_false {e : Cause} {s : State} (h : classOf e = .badReq ∨ isLinkOp s.opl = false) :
    invalidates e s = false := by
  obtain h | h := h <;> simp [invalidates, h]

/-- A `CMD` write that is accepted (R110). -/
theorem command_of_idle {s : State} (hr : s.resetIn = false) (hf : s.fsm = .idle) (op : BitVec 4) (sp : BitVec 1)
    (fc : Nibble) (run : State → State) : command op sp fc run s = run (accept op sp fc s) := by
  rw [command, hr, if_neg Bool.false_ne_true, if_pos hf]

/-- Settles O26: acceptance, then the argument check, which has no register or page to record. -/
theorem reservedOperationsEndInBadReq : Obligations.ReservedOperationsEndInBadReq := by
  intro s i op sp fc hi hop hr hf
  have h56 : ¬ (op = 5 ∨ op = 6) := by rintro (rfl | rfl) <;> exact absurd hop (by decide)
  have h7 : ¬ op = 7 := by rintro rfl; exact absurd hop (by decide)
  have hcheck : checkArgs (accept op sp fc s) = raise .reservedOp (accept op sp fc s) := checkArgs_reserved hop
  have hrun : command op sp fc (phase .checkArgs checkArgs) s = raise .reservedOp (accept op sp fc s) := by
    rw [command_of_idle hr hf, ← hcheck]
    exact phase_of_eq rfl _
  have hkeep : invalidates .reservedOp (accept op sp fc s) = false := invalidates_eq_false (.inl rfl)
  rw [exec_reserved hi hop, hrun, raise, hkeep]
  simp only [accept_opl, h56, h7, if_false, Bool.not_false, Bool.and_true]
  rfl

/-! ### ENC and DEC -/

/-- The part of the state that belongs to the link and to the tracked pages. -/
structure LinkSide where
  link : Link
  txf : List Byte
  rxCount : Nat
  timerFired : Bool
  mainValid : Bool
  mainPage : Byte
  subValid : Bool
  subPage : Byte

/-- That part of a state. -/
def linkSide (s : State) : LinkSide where
  link := s.link
  txf := s.txf
  rxCount := s.rxCount
  timerFired := s.timerFired
  mainValid := s.mainValid
  mainPage := s.mainPage
  subValid := s.subValid
  subPage := s.subPage

/-- An error that clears no tracking changes none of it (R302). -/
theorem linkSide_raise {e : Cause} {s : State} (h : invalidates e s = false) :
    linkSide (raise e s) = linkSide s := by
  simp [linkSide, h]

/-- The argument check raises BADREQ at most (R112). -/
theorem linkSide_checkArgs (s : State) : linkSide (checkArgs s) = linkSide s := by
  obtain ⟨x, heq⟩ | heq | heq | heq := checkArgs_cases s <;> rw [heq]
  case inr.inr.inl | inr.inr.inr => exact linkSide_raise (invalidates_eq_false (.inl rfl))
  all_goals rfl

theorem linkSide_encRun (s : State) : linkSide (encRun s) = linkSide s := rfl

/-- A FramingError of DEC invalidates nothing: DEC is no link operation (R163, R249). -/
theorem linkSide_decRun {s : State} (h : s.opl = 2) : linkSide (decRun s) = linkSide s := by
  obtain ⟨-, out, -, heq⟩ | ⟨e, -, heq⟩ := decRun_spec s <;> rw [heq]
  case inl => rfl
  case inr =>
    have hop : isLinkOp (recordHeader (wirePayload s) s).opl = false := by rw [recordHeader_opl, h]; rfl
    exact linkSide_raise (invalidates_eq_false (.inr hop))

/-- A phase keeps what its action keeps. -/
theorem apply_phase_eq {α : Type} {g : State → α} {x : FsmState} {f : State → State} {s : State}
    (hf : g (f s) = g s) : g (phase x f s) = g s := by
  unfold phase
  split
  · exact hf
  · rfl

theorem linkSide_phase_checkArgs (s : State) : linkSide (phase .checkArgs checkArgs s) = linkSide s :=
  apply_phase_eq (linkSide_checkArgs s)

theorem hostSide_phase_checkArgs (s : State) : hostSide (phase .checkArgs checkArgs s) = hostSide s :=
  apply_phase_eq (hostSide_checkArgs s)

/-- A `CMD` write leaves the link's side as its run does (R110, R113). -/
theorem linkSide_command {op : BitVec 4} {sp : BitVec 1} {fc : Nibble} {run : State → State}
    (hrun : ∀ s, s.opl = op → linkSide (run s) = linkSide s) (s : State) :
    linkSide (command op sp fc run s) = linkSide s := by
  obtain ⟨-, heq⟩ | ⟨-, -, heq⟩ | ⟨-, -, heq⟩ := command_cases op sp fc run s <;> rw [heq]
  case inr.inl => exact hrun (accept op sp fc s) rfl
  case inr.inr => rfl

/-- The requests of ENC, DEC and the reserved operations leave the link's side alone. -/
theorem linkSide_exec {s t : State} {i : Instr} {op : BitVec 4} {sp : BitVec 1} {fc : Nibble}
    (hi : commandOf i = some (op, sp, fc)) (hop : op.toNat ≤ 2 ∨ 8 ≤ op.toNat) (ht : exec i s = .next t) :
    linkSide t = linkSide s := by
  by_cases hres : op = 0 ∨ 8 ≤ op.toNat
  case pos =>
    rw [exec_reserved hi hres, Host.Outcome.next.injEq] at ht
    exact ht ▸ linkSide_command (fun s _ => linkSide_phase_checkArgs s) s
  case neg =>
    cases i <;> cases hi
    case enc =>
      cases ht
      exact linkSide_command (fun s _ => (apply_phase_eq (linkSide_encRun _)).trans (linkSide_phase_checkArgs s)) s
    case dec =>
      cases ht
      refine linkSide_command (fun s h => ?_) s
      have hopl : (phase .checkArgs checkArgs s).opl = 2 :=
        (congrArg HostSide.opl (hostSide_phase_checkArgs s)).trans h
      exact (apply_phase_eq (linkSide_decRun hopl)).trans (linkSide_phase_checkArgs s)
    case send | recv | readReg | writeReg | selectPage => exact absurd hop (by decide)
    all_goals exact absurd (by decide) hres

/-- Settles O44. -/
theorem codecUsesNoLink : Obligations.CodecUsesNoLink := by
  intro s t i op sp fc hi hop ht
  have h := linkSide_exec hi hop ht
  simpa only [linkSide, LinkSide.mk.injEq] using h

end Sys2Proof.Machine
end

section
/-! Which bytes the requests write (R81, R118): each action of the FSM writes at most a window of `WIREBUF` and its
result in `RXBUF`, and the operands that bound the two do not change on the way. -/
namespace Sys2Proof.Machine

open Sys2Proof

/-- From every state with this host's side, a function of states keeps the byte at an offset, and the host's side. -/
def KeepsByte (H : HostSide) (a : Nat) (f : State → State) : Prop :=
  ∀ s, hostSide s = H → byteAt (f s) a = byteAt s a ∧ hostSide (f s) = H

namespace KeepsByte

variable {H : HostSide} {a : Nat} {f g : State → State}

theorem id : KeepsByte H a fun s => s := fun _ h => ⟨rfl, h⟩

theorem comp (hf : KeepsByte H a f) (hg : KeepsByte H a g) : KeepsByte H a fun s => f (g s) := by
  intro s h
  obtain ⟨hbg, hg'⟩ := hg s h
  obtain ⟨hbf, hf'⟩ := hf (g s) hg'
  exact ⟨hbf.trans hbg, hf'⟩

theorem phase (hf : KeepsByte H a f) (x : FsmState) : KeepsByte H a (phase x f) := by
  intro s h
  obtain ⟨hb, hh⟩ := hf s h
  exact ⟨apply_phase_eq (g := (byteAt · a)) hb, (apply_phase_eq (hh.trans h.symm)).trans h⟩

/-- A phase after a run that keeps the byte. -/
theorem thenPhase (hg : KeepsByte H a g) (hf : KeepsByte H a f) (x : FsmState) :
    KeepsByte H a fun s => Machine.phase x f (g s) :=
  (hf.phase x).comp hg

/-- An action that changes neither the memory nor the host's side. -/
theorem of_mem (hmem : ∀ s, (f s).mem = s.mem) (hhost : ∀ s, hostSide (f s) = hostSide s) : KeepsByte H a f :=
  fun s h => ⟨byteAt_congr (hmem s) (congrArg HostSide.period (hhost s)) a, (hhost s).trans h⟩

/-- An action that keeps the byte under this host's side, and the host's side always. -/
theorem of_byteAt (hbyte : ∀ s, hostSide s = H → byteAt (f s) a = byteAt s a)
    (hhost : ∀ s, hostSide (f s) = hostSide s) : KeepsByte H a f :=
  fun s h => ⟨hbyte s h, (hhost s).trans h⟩

end KeepsByte

/-- A byte past the most that a write may cover reads as before. -/
theorem byteAt_of_writeAll_within {s t : State} {a b n : Nat} {bs : List Byte}
    (hm : t.mem = s.mem.writeAll a bs) (hp : t.period = s.period) (hn : bs.length ≤ n)
    (h : b < a ∨ a + n ≤ b) : byteAt t b = byteAt s b :=
  byteAt_of_writeAll_outside hm hp (by omega)

/-! ### The actions of the states -/

theorem transmit_mem {next : State → State} (hnext : ∀ t, (next t).mem = t.mem) (fcmd : Nibble) (d : List Byte)
    (s : State) : (transmit fcmd d next s).mem = s.mem := by
  obtain ⟨l, -, -, -, heq | heq⟩ := transmit_cases fcmd d next s <;> rw [heq]
  · exact hnext _
  · rfl

theorem transmit_advance_mem (fcmd : Nibble) (d : List Byte) (s : State) :
    (transmit fcmd d advance s).mem = s.mem :=
  transmit_mem (next := advance) (fun _ => rfl) fcmd d s

theorem sendTx_mem (s : State) : (sendTx s).mem = s.mem :=
  transmit_mem (next := fun t => complete (clearTracking t)) (fun _ => rfl) _ _ s

theorem checkArgs_mem (s : State) : (checkArgs s).mem = s.mem := by
  obtain ⟨x, heq⟩ | heq | heq | heq := checkArgs_cases s <;> rw [heq] <;> rfl

theorem psCheck_mem (s : State) : (psCheck s).mem = s.mem := by
  obtain ⟨-, heq⟩ | ⟨-, -, heq⟩ | ⟨-, -, heq⟩ := psCheck_spec s <;> rw [heq] <;> rfl

section Actions
variable {H : HostSide} {a : Nat}

theorem keepsByte_checkArgs : KeepsByte H a checkArgs := .of_mem checkArgs_mem hostSide_checkArgs

theorem keepsByte_psCheck : KeepsByte H a psCheck := .of_mem psCheck_mem hostSide_psCheck

theorem keepsByte_sendTx : KeepsByte H a sendTx := .of_mem sendTx_mem fun s => hostSide_sendFrame _ _ s

/-- A message sent from a state writes no byte (R180). -/
theorem keepsByte_transmit_advance (fcmd : State → Nibble) (d : State → List Byte) :
    KeepsByte H a fun s => transmit (fcmd s) (d s) advance s :=
  .of_mem (fun s => transmit_advance_mem _ _ s) fun s => hostSide_transmit_advance _ _ s

theorem keepsByte_rrSetupTx : KeepsByte H a rrSetupTx := keepsByte_transmit_advance _ _
theorem keepsByte_rrTrigTx : KeepsByte H a rrTrigTx := keepsByte_transmit_advance _ _
theorem keepsByte_psRdSetupTx : KeepsByte H a psRdSetupTx := keepsByte_transmit_advance _ _
theorem keepsByte_psRdTrigTx : KeepsByte H a psRdTrigTx := keepsByte_transmit_advance _ _

theorem keepsByte_wrTx : KeepsByte H a wrTx :=
  .of_mem (fun s => transmit_advance_mem _ _ (clearForWrite s.reg s))
    fun s => hostSide_transmit_advance _ _ (clearForWrite s.reg s)

theorem keepsByte_psWrTx : KeepsByte H a psWrTx :=
  .of_mem (fun s => transmit_advance_mem _ _ (clearSpace s.spacel s))
    fun s => hostSide_transmit_advance _ _ (clearSpace s.spacel s)

/-- What a receive writes: its window of `WIREBUF`, and what is done with the bytes received, of which there are at
most as many as asked for (R182). -/
theorem receive_byteAt {l : Nat} {mode : RxMode} {next : List Byte → State → State} {s : State}
    (hwire : a < 0x800 ∨ 0x800 + wireWindow l ≤ a)
    (hnext : ∀ out t, out.length ≤ l → byteAt (next out t) a = byteAt t a) :
    byteAt (receive l mode next s) a = byteAt s a := by
  have hroom := (collect_spec s.cfg.val.terminator (wireWindow l) 0 s.link.rx).1
  have hcollect : byteAt (afterCollect (collect s.cfg.val.terminator (wireWindow l) 0 s.link.rx) s) a = byteAt s a :=
    byteAt_of_writeAll_within rfl rfl hroom hwire
  obtain ⟨-, heq⟩ | ⟨-, e, heq, -⟩ | ⟨-, hdr, out, hd, -, heq⟩ := receive_cases l mode next s <;> rw [heq]
  case inr.inr =>
    have hout : out.length ≤ l := by
      rw [decodeFrame_length hd, wireWindow] at hroom
      omega
    exact (hnext out _ hout).trans hcollect
  all_goals exact hcollect

theorem receiveSack_byteAt {s : State} (h : a < 0x800 ∨ 0x800 + wireWindow s.cfg.val.setupAckLen ≤ a) :
    byteAt (receiveSack s) a = byteAt s a :=
  receive_byteAt h fun _ _ _ => rfl

theorem receiveTrep_byteAt {s : State} {len : Byte} (hres : a < 0x600 ∨ 0x600 + (len.toNat + 1) ≤ a)
    (hwire : a < 0x800 ∨ 0x800 + wireWindow (len.toNat + 1) ≤ a) :
    byteAt (receiveTrep len s) a = byteAt s a := by
  refine receive_byteAt hwire fun out t hout => ?_
  split <;> exact byteAt_of_writeAll_within rfl rfl hout hres

/-- In PS_WR_RX the acknowledge is not stored (R242). -/
theorem receiveWack_byteAt {s : State} (hres : a ≠ 0x600)
    (hwire : a < 0x800 ∨ 0x800 + wireWindow s.cfg.val.wrAckLen ≤ a) :
    byteAt (receiveWack s) a = byteAt s a := by
  refine receive_byteAt hwire fun out t _ => ?_
  simp only
  split
  · exact byteAt_of_writeAll_within rfl rfl (List.length_take_le 1 out) (Nat.lt_or_gt_of_ne hres)
  · rfl

theorem recvRx_byteAt {s : State} (hres : a < 0x600 ∨ 0x600 + (recvLength s).1 ≤ a)
    (hwire : a < 0x800 ∨ 0x800 + wireWindow (recvLength s).1 ≤ a) :
    byteAt (recvRx s) a = byteAt s a := by
  refine receive_byteAt hwire fun out t hout => ?_
  exact byteAt_of_writeAll_within rfl rfl hout hres

theorem encRun_byteAt {s : State} (h : a < 0x800 ∨ 0x800 + (2 * s.len.toNat + 2) ≤ a) :
    byteAt (encRun s) a = byteAt s a := by
  have hlen := encodeFrame_length s.cfg.val s.fcmdl (txPayload s)
  rw [txPayload_length] at hlen
  exact byteAt_of_writeAll_within rfl rfl hlen.le h

theorem decRun_byteAt {s : State} (h : a < 0x600 ∨ 0x600 + (s.len.toNat - 2) / 2 ≤ a) :
    byteAt (decRun s) a = byteAt s a := by
  obtain ⟨hdr, out, hd, heq⟩ | ⟨e, -, heq⟩ := decRun_spec s <;> rw [heq]
  case inl =>
    have hlen := decodeFrame_length hd
    rw [wirePayload, bytesAt_length] at hlen
    exact byteAt_of_writeAll_within rfl rfl (bs := out) (by omega) h
  case inr => rfl

end Actions

/-! ### The requests -/

section Requests
variable {s t : State} {op : BitVec 4} {sp : BitVec 1} {fc : Nibble} {a : Nat}

/-- A `CMD` write keeps a byte that its run keeps (R110, R113). -/
theorem byteAt_command {run : State → State} (hrun : KeepsByte (hostSide (accept op sp fc s)) a run) :
    byteAt (command op sp fc run s) a = byteAt s a := by
  obtain ⟨-, heq⟩ | ⟨-, -, heq⟩ | ⟨-, -, heq⟩ := command_cases op sp fc run s <;> rw [heq]
  case inr.inl => exact (hrun _ rfl).1
  case inr.inr => rfl

/-- The states of R210, R217 and R242 that receive, under the host's side of the request. -/
theorem keepsByte_receiveSack {H : HostSide} (h : a < 0x800 ∨ 0x800 + wireWindow H.cfg.val.setupAckLen ≤ a) :
    KeepsByte H a receiveSack :=
  .of_byteAt (by rintro s rfl; exact receiveSack_byteAt h) hostSide_receiveSack

theorem keepsByte_receiveWack {H : HostSide} (hres : a ≠ 0x600)
    (hwire : a < 0x800 ∨ 0x800 + wireWindow H.cfg.val.wrAckLen ≤ a) : KeepsByte H a receiveWack :=
  .of_byteAt (by rintro s rfl; exact receiveWack_byteAt hres hwire) hostSide_receiveWack

theorem keepsByte_psRdTrigRx {H : HostSide} (hres : a < 0x600 ∨ 0x600 + 2 ≤ a)
    (hwire : a < 0x800 ∨ 0x800 + wireWindow 2 ≤ a) : KeepsByte H a psRdTrigRx :=
  .of_byteAt (fun _ _ => receiveTrep_byteAt hres hwire) (hostSide_receiveTrep 1)

/-- `len[7:0]` is at most `LEN`, whose range CHECK_ARGS need not be asked for here. -/
theorem keepsByte_rrTrigRx {H : HostSide} (hres : a < 0x600 ∨ 0x600 + (H.len.toNat + 1) ≤ a)
    (hwire : a < 0x800 ∨ 0x800 + wireWindow (H.len.toNat + 1) ≤ a) : KeepsByte H a rrTrigRx := by
  refine .of_byteAt ?_ fun s => hostSide_receiveTrep (lenByte s) s
  rintro s rfl
  have hlen : (lenByte s).toNat ≤ (hostSide s).len.toNat :=
    (BitVec.toNat_setWidth 8 s.len).le.trans (Nat.mod_le _ _)
  simp only [wireWindow] at hwire
  exact receiveTrep_byteAt (by omega) (by simp only [wireWindow]; omega)

/-- `RecvLength` reads the length and the configuration (R188). -/
theorem recvLength_congr {s t : State} (hlen : s.len = t.len) (hcfg : s.cfg = t.cfg) :
    recvLength s = recvLength t := by
  rw [recvLength, hlen, hcfg, recvLength]

theorem keepsByte_psAttempts {H : HostSide} (hres : a ≠ 0x600 ∧ a ≠ 0x601)
    (hwack : a < 0x800 ∨ 0x800 + wireWindow H.cfg.val.wrAckLen ≤ a)
    (hsack : a < 0x800 ∨ 0x800 + wireWindow H.cfg.val.setupAckLen ≤ a)
    (htrep : a < 0x800 ∨ 0x800 + wireWindow 2 ≤ a) (n : Nat) : KeepsByte H a (psAttempts n) := by
  have hattempt : KeepsByte H a psAttempt :=
    (keepsByte_psWrTx.phase _)
      |>.thenPhase (keepsByte_receiveWack hres.1 hwack) _
      |>.thenPhase keepsByte_psRdSetupTx _
      |>.thenPhase (keepsByte_receiveSack hsack) _
      |>.thenPhase keepsByte_psRdTrigTx _
      |>.thenPhase (keepsByte_psRdTrigRx (by omega) htrep) _
      |>.thenPhase keepsByte_psCheck _
  induction n with
  | zero => exact .id
  | succ n ih => exact ih.comp hattempt

end Requests

/-- Settles O43: each request by the actions of its states, in order. -/
theorem requestMemoryFrame : Obligations.RequestMemoryFrame := by
  intro s t sp fc a
  have hcheck (op : BitVec 4) : KeepsByte (hostSide (accept op sp fc s)) a (phase .checkArgs checkArgs) :=
    keepsByte_checkArgs.phase _
  refine ⟨fun ht ha => ?enc, fun ht ha => ?dec, fun ht => ?send, fun i op hi hop ht => ?reserved,
    fun ht hres hwire => ?recv, fun ht hres hwire => ?readReg, fun ht hres hwire => ?writeReg,
    fun ht h0 h1 hwire => ?selectPage⟩
  case reserved =>
    rw [exec_reserved hi hop, Host.Outcome.next.injEq] at ht
    exact ht ▸ byteAt_command (hcheck op)
  all_goals
    cases ht
    refine byteAt_command ?_
  case enc =>
    refine (hcheck 1).thenPhase (.of_byteAt (fun u hu => encRun_byteAt ?_) fun _ => rfl) _
    rwa [show u.len = s.len from congrArg HostSide.len hu]
  case dec =>
    refine (hcheck 2).thenPhase (.of_byteAt (fun u hu => decRun_byteAt ?_) hostSide_decRun) _
    rwa [show u.len = s.len from congrArg HostSide.len hu]
  case send => exact (hcheck 3).thenPhase keepsByte_sendTx _
  case recv =>
    refine (hcheck 4).thenPhase (.of_byteAt (fun u hu => ?_) hostSide_recvRx) _
    have hlen : recvLength u = recvLength s :=
      recvLength_congr (congrArg HostSide.len hu) (congrArg HostSide.cfg hu)
    exact recvRx_byteAt (hlen ▸ hres) (hlen ▸ hwire)
  case readReg =>
    have hsack : a < 0x800 ∨ 0x800 + wireWindow s.cfg.val.setupAckLen ≤ a := by omega
    have htrep : a < 0x800 ∨ 0x800 + wireWindow (s.len.toNat + 1) ≤ a := by omega
    exact (hcheck 5)
      |>.thenPhase keepsByte_rrSetupTx _
      |>.thenPhase (keepsByte_receiveSack hsack) _
      |>.thenPhase keepsByte_rrTrigTx _
      |>.thenPhase (keepsByte_rrTrigRx hres htrep) _
  case writeReg =>
    exact (hcheck 6)
      |>.thenPhase keepsByte_wrTx _
      |>.thenPhase (keepsByte_receiveWack hres hwire) _
  case selectPage =>
    have hwack : a < 0x800 ∨ 0x800 + wireWindow s.cfg.val.wrAckLen ≤ a := by omega
    have hsack : a < 0x800 ∨ 0x800 + wireWindow s.cfg.val.setupAckLen ≤ a := by omega
    exact (keepsByte_psAttempts ⟨h0, h1⟩ hwack hsack (by omega) 7).comp (hcheck 7)

end Sys2Proof.Machine
end

section
/-! A request is the run of its FSM steps (R96, R111, R118): each phase of the request is one step of a run that has not
ended before, and none of a run that has. -/
namespace Sys2Proof.Machine

open Sys2Proof

/-! ### Runs of a known length -/

/-- From the states of `P`, a function of states takes `n` FSM steps and ends in the states of `Q`. -/
def RunsSteps (n : Nat) (P Q : State → Prop) (run : State → State) : Prop :=
  ∀ s, P s → run s = fsmSteps n s ∧ Q (run s)

theorem RunsSteps.comp {m n : Nat} {P Q R : State → Prop} {f g : State → State} (hg : RunsSteps m P Q g)
    (hf : RunsSteps n Q R f) : RunsSteps (m + n) P R fun s => f (g s) := by
  intro s hs
  obtain ⟨heg, hq⟩ := hg s hs
  obtain ⟨hef, hr⟩ := hf (g s) hq
  exact ⟨hef.trans (by rw [heg, fsmSteps_add]), hr⟩

/-- In IDLE and FAULTED there is no step (R111). -/
theorem fsmStep_of_not_busy {s : State} (h : busy s = false) : fsmStep s = s := by
  obtain hs | hs := busy_eq_false_iff.mp h <;> rw [fsmStep, hs]

theorem fsmSteps_of_not_busy {s : State} (h : busy s = false) (n : Nat) : fsmSteps n s = s := by
  induction n with
  | zero => rfl
  | succ n ih => rw [fsmSteps, fsmStep_of_not_busy h, ih]

/-- A phase is one FSM step from every state that it acts in or that has no step. -/
theorem RunsSteps.phase {P Q : State → Prop} {x : FsmState} {f : State → State}
    (hf : ∀ s, s.fsm = x → fsmStep s = f s) (hP : ∀ s, P s → busy s = false ∨ s.fsm = x)
    (hQ : ∀ s, P s → Q (fsmStep s)) : RunsSteps 1 P Q (phase x f) := by
  intro s hs
  have hstep : Machine.phase x f s = fsmStep s := by
    by_cases hx : s.fsm = x
    · rw [phase_of_eq hx, hf s hx]
    · rw [phase_of_ne hx, fsmStep_of_not_busy ((hP s hs).resolve_right hx)]
  exact ⟨hstep, hstep ▸ hQ s hs⟩

/-! ### Where a step leads -/

/-- The request has ended, or is in a state, with a property of the attempt counter (R22, R24). -/
def EndedOrAt (x : FsmState) (q : BitVec 3 → Prop) (s : State) : Prop :=
  busy s = false ∨ (s.fsm = x ∧ q s.attempt)

/-- An error ends the request (R303, R304). -/
theorem busy_raise (e : Cause) (s : State) : busy (raise e s) = false := by
  rw [busy_eq_false_iff, raise_fsm]
  split <;> simp

theorem busy_complete (s : State) : busy (complete s) = false := rfl

section Follower
variable {s : State} {x : FsmState} {q : BitVec 3 → Prop}

/-- A message sent leads to the follower of its state, or to an error (R180). -/
theorem transmit_advance_endedOrAt (hs : s.fsm = x) (hq : q s.attempt) (fcmd : Nibble) (d : List Byte) :
    EndedOrAt (followState x) q (transmit fcmd d advance s) := by
  obtain ⟨l, -, -, -, heq | heq⟩ := transmit_cases fcmd d advance s <;> rw [heq]
  · exact .inr ⟨congrArg followState hs, hq⟩
  · exact .inl (busy_raise _ _)

/-- A receive leads where its continuation does, or to an error (R182). -/
theorem receive_of_next {Q : State → Prop} {next : List Byte → State → State} (hs : s.fsm = x)
    (hq : q s.attempt) (herr : ∀ t, busy t = false → Q t)
    (hnext : ∀ out t, t.fsm = x → q t.attempt → Q (next out t)) (l : Nat) (mode : RxMode) :
    Q (receive l mode next s) := by
  obtain ⟨-, heq⟩ | ⟨-, e, heq, -⟩ | ⟨-, hdr, out, -, -, heq⟩ := receive_cases l mode next s <;> rw [heq]
  case inr.inr => exact hnext _ _ hs hq
  all_goals exact herr _ (busy_raise _ _)

theorem advance_endedOrAt (hs : s.fsm = x) (hq : q s.attempt) : EndedOrAt (followState x) q (advance s) :=
  .inr ⟨congrArg followState hs, hq⟩

theorem receiveSack_endedOrAt (hs : s.fsm = x) (hq : q s.attempt) :
    EndedOrAt (followState x) q (receiveSack s) :=
  receive_of_next hs hq (fun _ => .inl) (fun _ _ => advance_endedOrAt) _ _

/-- In PS_RD_TRIG_RX the reply is followed by the check (R242); in RR_TRIG_RX it ends the request (R214). -/
theorem receiveTrep_endedOrAt (hs : s.fsm = x) (hq : q s.attempt) (len : Byte) :
    EndedOrAt (followState x) q (receiveTrep len s) := by
  refine receive_of_next hs hq (fun _ => .inl) (fun out t ht hqt => ?_) _ _
  split
  · exact .inl (busy_complete _)
  · exact advance_endedOrAt (s := storeReply len out t) ht hqt

/-- In PS_WR_RX the acknowledge is followed by the read-back (R242); in WR_RX it ends the request (R217). -/
theorem receiveWack_endedOrAt (hs : s.fsm = x) (hq : q s.attempt) :
    EndedOrAt (followState x) q (receiveWack s) := by
  refine receive_of_next hs hq (fun _ => .inl) (fun out t ht hqt => ?_) _ _
  simp only
  split
  · exact .inl (busy_complete _)
  · exact advance_endedOrAt (s := { t with ack := out.headD 0 }) ht hqt

/-- A receive whose continuation ends the request ends it. -/
theorem receive_ends {next : List Byte → State → State} (hs : s.fsm = x)
    (hnext : ∀ out t, t.fsm = x → busy (next out t) = false) (l : Nat) (mode : RxMode) :
    busy (receive l mode next s) = false :=
  receive_of_next (q := fun _ => True) (Q := (busy · = false)) hs trivial (fun _ h => h)
    (fun out t ht _ => hnext out t ht) l mode

end Follower

theorem receiveTrep_ends {s : State} (hs : s.fsm = .rrTrigRx) (len : Byte) : busy (receiveTrep len s) = false :=
  receive_ends hs (fun _ _ ht => by rw [if_pos ht]; exact busy_complete _) _ _

theorem receiveWack_ends {s : State} (hs : s.fsm = .wrRx) : busy (receiveWack s) = false :=
  receive_ends hs (fun _ _ ht => by simp only; rw [if_pos ht]; exact busy_complete _) _ _

theorem recvRx_ends (s : State) : busy (recvRx s) = false := by
  refine receive_ends rfl ?_ _ _
  exact fun _ _ _ => busy_complete _

theorem sendTx_ends (s : State) : busy (sendTx s) = false := by
  obtain ⟨l, -, -, -, heq | heq⟩ :=
    transmit_cases s.fcmdl (txPayload s) (fun t => complete (clearTracking t)) s <;> rw [sendTx, sendFrame, heq]
  · rfl
  · exact busy_raise _ _

theorem decRun_ends (s : State) : busy (decRun s) = false := by
  obtain ⟨-, out, -, heq⟩ | ⟨e, -, heq⟩ := decRun_spec s <;> rw [heq]
  · rfl
  · exact busy_raise _ _

/-- From a state with a follower one FSM step leads to it, or ends the request (R210, R217, R242). -/
theorem fsmStep_endedOrAt {s : State} {x : FsmState} {q : BitVec 3 → Prop} (hs : s.fsm = x) (hq : q s.attempt)
    (hx : followState x ≠ x) : EndedOrAt (followState x) q (fsmStep s) := by
  rw [fsmStep, hs]
  cases x
  case rrSetupTx | rrTrigTx | psRdSetupTx | psRdTrigTx => exact transmit_advance_endedOrAt hs hq _ _
  case wrTx => exact transmit_advance_endedOrAt (s := clearForWrite s.reg s) hs hq _ _
  case psWrTx => exact transmit_advance_endedOrAt (s := clearSpace s.spacel s) hs hq _ _
  case rrSetupRx | psRdSetupRx => exact receiveSack_endedOrAt hs hq
  case psRdTrigRx => exact receiveTrep_endedOrAt hs hq _
  case psWrRx => exact receiveWack_endedOrAt hs hq
  all_goals exact absurd rfl hx

/-- The states that end a request on every path: those with no follower, but for the two that branch (R112, R243). -/
def endsRequest (x : FsmState) : Bool := followState x == x && x != .checkArgs && x != .psCheck

theorem fsmStep_ends {s : State} {x : FsmState} (hs : s.fsm = x) (hx : endsRequest x = true) :
    busy (fsmStep s) = false := by
  rw [fsmStep, hs]
  cases x
  case idle | faulted => exact busy_eq_false_iff.mpr (by simp [hs])
  case encRun => rfl
  case decRun => exact decRun_ends s
  case sendTx => exact sendTx_ends s
  case recvRx => exact recvRx_ends s
  case rrTrigRx => exact receiveTrep_ends hs _
  case wrRx => exact receiveWack_ends hs
  all_goals exact absurd hx (by decide)

/-- PS_CHECK ends the request, or starts the next attempt, of which there are at most seven (R8, R243 to R245). -/
theorem psCheck_next (s : State) : busy (psCheck s) = false ∨
    ((psCheck s).fsm = .psWrTx ∧ (psCheck s).attempt.toNat = s.attempt.toNat + 1) := by
  obtain ⟨-, heq⟩ | ⟨-, hlt, heq⟩ | ⟨-, -, heq⟩ := psCheck_spec s <;> rw [heq]
  · exact .inl (busy_complete _)
  · have hseven := (budget_bounds s.cfg s.spacel).2
    refine .inr ⟨rfl, ?_⟩
    rw [goto_attempt, BitVec.toNat_add, show (1 : BitVec 3).toNat = 1 from rfl]
    omega
  · exact .inl (busy_raise _ _)

/-! ### The phases of a request -/

section Phases
variable {n : Nat} {P : State → Prop} {x y : FsmState} {q : BitVec 3 → Prop} {f run : State → State}

theorem RunsSteps.id (P : State → Prop) : RunsSteps 0 P P fun s => s := fun _ hs => ⟨rfl, hs⟩

/-- A phase after a run that has ended or stands in the phase's state. -/
theorem RunsSteps.thenPhaseTo {Q : State → Prop} (h : RunsSteps n P (EndedOrAt x q) run)
    (hf : ∀ s, s.fsm = x → fsmStep s = f s) (hend : ∀ s, busy s = false → Q s)
    (hQ : ∀ s, s.fsm = x → q s.attempt → Q (fsmStep s)) :
    RunsSteps (n + 1) P Q fun s => Machine.phase x f (run s) := by
  refine h.comp (.phase hf (fun s hs => hs.imp_right And.left) fun s hs => ?_)
  obtain he | ⟨hs, hq⟩ := hs
  · rw [fsmStep_of_not_busy he]
    exact hend s he
  · exact hQ s hs hq

/-- A phase inside a request, in a state with a follower. -/
theorem RunsSteps.thenPhase (h : RunsSteps n P (EndedOrAt x q) run) (hxy : followState x = y)
    (hf : ∀ s, s.fsm = x → fsmStep s = f s) (hne : y ≠ x := by decide) :
    RunsSteps (n + 1) P (EndedOrAt y q) fun s => Machine.phase x f (run s) := by
  subst hxy
  exact h.thenPhaseTo hf (fun _ => .inl) fun _ hs hq => fsmStep_endedOrAt hs hq hne

/-- The last phase of a request. -/
theorem RunsSteps.thenLastPhase (h : RunsSteps n P (EndedOrAt x q) run)
    (hf : ∀ s, s.fsm = x → fsmStep s = f s) (hx : endsRequest x = true := by decide) :
    RunsSteps (n + 1) P (busy · = false) fun s => Machine.phase x f (run s) :=
  h.thenPhaseTo hf (fun _ he => he) fun _ hs _ => fsmStep_ends hs hx

end Phases

/-- A request accepted and not yet checked (R110). -/
def AtCheckArgs (op : BitVec 4) (s : State) : Prop := s.fsm = .checkArgs ∧ s.opl = op

/-- The argument check leads to one state of the operation, or to an error (R112). -/
theorem runsSteps_checkArgs {op : BitVec 4} {Q : State → Prop} (hQ : ∀ s, s.opl = op → Q (checkArgs s)) :
    RunsSteps 1 (AtCheckArgs op) Q (phase .checkArgs checkArgs) := by
  have hf : ∀ s, s.fsm = .checkArgs → fsmStep s = checkArgs s := fun s hs => by rw [fsmStep, hs]
  exact .phase hf (fun _ hs => .inr hs.1) fun s ⟨hs, hop⟩ => (hf s hs).symm ▸ hQ s hop

/-- The check of a length leads to the state it is for, or to an error (R112). -/
theorem checkLen_endedOrAt (b : Bool) (x : FsmState) (s : State) : EndedOrAt x (fun _ => True) (checkLen b x s) := by
  unfold checkLen
  split
  · exact .inr ⟨rfl, trivial⟩
  · exact .inl (busy_raise _ _)

/-- The request has ended, or is at the start of an attempt of which, with it, at most `n` are left (R243). -/
abbrev AttemptsLeft (n : Nat) : State → Prop := EndedOrAt .psWrTx (8 ≤ n + ·.toNat)

theorem psCheck_attemptsLeft {n : Nat} {s : State} (h : 8 ≤ n + 1 + s.attempt.toNat) :
    AttemptsLeft n (psCheck s) :=
  (psCheck_next s).imp_right fun ⟨hx, hnext⟩ => ⟨hx, by omega⟩

/-- One attempt is the seven states of R242, the last of which ends the request or leaves one attempt less. -/
theorem runsSteps_psAttempt (n : Nat) : RunsSteps 7 (AttemptsLeft (n + 1)) (AttemptsLeft n) psAttempt := by
  have hcheck : ∀ s, s.fsm = .psCheck → fsmStep s = psCheck s := fun s hs => by rw [fsmStep, hs]
  refine .thenPhaseTo (.thenPhase (.thenPhase (.thenPhase (.thenPhase (.thenPhase (.thenPhase (.id _)
    rfl ?_) rfl ?_) rfl ?_) rfl ?_) rfl ?_) rfl ?_) hcheck (fun _ => .inl)
    fun s hs hk => (hcheck s hs).symm ▸ psCheck_attemptsLeft hk
  all_goals
    intro s hs
    rw [fsmStep, hs]

/-- With no attempt left the request has ended: the counter has three bits. -/
theorem not_busy_of_attemptsLeft_zero {s : State} (h : AttemptsLeft 0 s) : busy s = false := by
  obtain h | ⟨-, hk⟩ := h
  · exact h
  · have hlt := s.attempt.isLt
    omega

theorem runsSteps_psAttempts (n : Nat) : RunsSteps (7 * n) (AttemptsLeft n) (busy · = false) (psAttempts n) := by
  induction n with
  | zero => exact fun s hs => ⟨rfl, not_busy_of_attemptsLeft_zero hs⟩
  | succ n ih =>
    rw [Nat.mul_succ, Nat.add_comm]
    exact .comp (g := psAttempt) (f := psAttempts n) (runsSteps_psAttempt n) ih

/-- The argument check of an operation with a length to check (R112). -/
theorem runsSteps_checkLen {op : BitVec 4} {x : FsmState}
    (h : ∀ s, s.opl = op → checkArgs s = checkLen (lenInRange op s.len) x s) :
    RunsSteps 1 (AtCheckArgs op) (EndedOrAt x fun _ => True) (phase .checkArgs checkArgs) :=
  runsSteps_checkArgs fun s hop => h s hop ▸ checkLen_endedOrAt _ x s

/-- Every host command's request is a run of at most 50 FSM steps (which `exec_eq_command` leaves uncounted): the check,
and for SELECT_PAGE seven attempts of seven. -/
theorem exec_eq_command_runsSteps {i : Instr} {op : BitVec 4} {sp : BitVec 1} {fc : Nibble}
    (hi : commandOf i = some (op, sp, fc)) :
    ∃ n ≤ 50, ∃ run, RunsSteps n (AtCheckArgs op) (busy · = false) run ∧
      ∀ s, exec i s = .next (command op sp fc run s) := by
  by_cases hres : op = 0 ∨ 8 ≤ op.toNat
  case pos =>
    refine ⟨1, by decide, _, runsSteps_checkArgs fun s hop => ?_, exec_reserved hi hres⟩
    rw [checkArgs_reserved (hop ▸ hres)]
    exact busy_raise _ _
  case neg =>
    cases i <;> cases hi
    case selectPage =>
      refine ⟨50, by decide, _, (runsSteps_checkArgs fun s hop => ?_).comp (runsSteps_psAttempts 7), fun _ => rfl⟩
      have heq : checkArgs s = goto .psWrTx { s with attempt := 1 } := by rw [checkArgs, hop]; rfl
      have hone : 8 ≤ 7 + (1 : BitVec 3).toNat := by decide
      exact heq ▸ .inr ⟨rfl, hone⟩
    case enc | dec | send | recv =>
      refine ⟨2, by decide, _, ?_, fun _ => rfl⟩
      refine .thenLastPhase (runsSteps_checkLen fun s hop => ?_) fun s hs => ?_
      · rw [checkArgs, hop]; rfl
      · rw [fsmStep, hs]
    case readReg =>
      refine ⟨5, by decide, _, ?_, fun _ => rfl⟩
      refine .thenLastPhase (.thenPhase (.thenPhase (.thenPhase (runsSteps_checkLen fun s hop => ?_)
        rfl fun s hs => ?_) rfl fun s hs => ?_) rfl fun s hs => ?_) fun s hs => ?_
      · rw [checkArgs, hop]; rfl
      all_goals rw [fsmStep, hs]
    case writeReg =>
      refine ⟨3, by decide, _, ?_, fun _ => rfl⟩
      refine .thenLastPhase (.thenPhase (runsSteps_checkLen fun s hop => ?_) rfl fun s hs => ?_) fun s hs => ?_
      · rw [checkArgs, hop]; rfl
      all_goals rw [fsmStep, hs]
    all_goals exact absurd (by decide) hres

/-- A run that ends within `n` steps ends at a first one, where it stays. -/
theorem exists_first_end {n : Nat} {s : State} (hs : busy s = true) (hend : busy (fsmSteps n s) = false) :
    ∃ m, 1 ≤ m ∧ m ≤ n ∧ fsmSteps n s = fsmSteps m s ∧ ∀ k, k < m → busy (fsmSteps k s) = true := by
  have hex : ∃ m, busy (fsmSteps m s) = false := ⟨n, hend⟩
  have hle : Nat.find hex ≤ n := Nat.find_min' hex hend
  refine ⟨Nat.find hex, ?pos, hle, ?same, fun k hk => by simpa using Nat.find_min hex hk⟩
  case pos => exact (Nat.find_pos hex).mpr (by simp [fsmSteps, hs])
  case same =>
    obtain ⟨d, hd⟩ := Nat.exists_eq_add_of_le hle
    have hstay := fsmSteps_of_not_busy (Nat.find_spec hex) d
    rw [← fsmSteps_add, ← hd] at hstay
    exact hstay

/-- Settles O30. -/
theorem requestIsFsmRun : Obligations.RequestIsFsmRun := by
  intro s i op sp fc hi hr hf
  obtain ⟨n, hn, run, hrun, hexec⟩ := exec_eq_command_runsSteps hi
  obtain ⟨heq, hend⟩ := hrun (accept op sp fc s) ⟨rfl, rfl⟩
  obtain ⟨m, hm, hmn, hsame, hbusy⟩ := exists_first_end (s := accept op sp fc s) rfl (heq ▸ hend)
  refine ⟨m, hm, hmn.trans hn, ?_, ?_, hbusy⟩
  · rw [hexec, command_of_idle hr hf, heq, hsame]
  · rw [← hsame, ← heq, hend]

end Sys2Proof.Machine
end

section
/-! The end of a request (R116, R302 to R304): a step of a running request without an error leads to such a one, or to
an end with `DONE` set, in FAULTED on an IoError alone. -/
namespace Sys2Proof.Machine

open Sys2Proof

/-! ### Running without an error, or ended -/

/-- A request in progress with no error recorded (R110, R306). -/
def RunningClean (s : State) : Prop := busy s = true ∧ s.err = 0

/-- A request that has ended: `DONE`, in FAULTED on an IoError and in IDLE otherwise (R116, R303, R304). -/
def Ended (s : State) : Prop := s.done = true ∧ (s.fsm = .faulted ∧ s.err = 1 ∨ s.fsm = .idle ∧ s.err ≠ 1)

theorem Ended.not_busy {s : State} (h : Ended s) : busy s = false := by
  obtain ⟨-, ⟨hf, -⟩ | ⟨hf, -⟩⟩ := h
  · exact busy_eq_false_iff.mpr (.inr hf)
  · exact busy_eq_false_iff.mpr (.inl hf)

/-- An error ends the request in any state (R302). -/
theorem ended_raise (e : Cause) (s : State) : Ended (raise e s) := by
  refine ⟨rfl, ?_⟩
  rw [raise_fsm, raise_err]
  cases e <;> simp [classOf, errCode]

/-- A completion with no error recorded ends it too (R116). -/
theorem ended_complete {s : State} (he : s.err = 0) : Ended (complete s) :=
  ⟨rfl, .inr ⟨rfl, by rw [complete_err, he]; decide⟩⟩

/-- What one step makes of a request in progress. -/
def RunningOrEnded (s : State) : Prop := RunningClean s ∨ Ended s

section Actions
variable {s : State} {op : BitVec 4}

/-- Into a state of some operation. -/
theorem runningOrEnded_goto {x : FsmState} (hx : requestOf x = some op) (he : s.err = 0) :
    RunningOrEnded (goto x s) :=
  .inl ⟨busy_of_requestOf (s := goto x s) hx, he⟩

/-- On to the follower of a state of some operation. -/
theorem runningOrEnded_advance (hop : requestOf s.fsm = some op) (he : s.err = 0) : RunningOrEnded (advance s) :=
  runningOrEnded_goto ((requestOf_followState s.fsm).trans hop) he

/-- A transmit raises `TX_FAIL`, or goes on in the same state without an error (R180). -/
theorem runningOrEnded_transmit {next : State → State} (he : s.err = 0)
    (hnext : ∀ t, t.fsm = s.fsm → t.err = 0 → RunningOrEnded (next t)) (fcmd : Nibble) (d : List Byte) :
    RunningOrEnded (transmit fcmd d next s) := by
  obtain ⟨l, -, -, -, heq | heq⟩ := transmit_cases fcmd d next s <;> rw [heq]
  · exact hnext _ rfl he
  · exact .inr (ended_raise _ _)

/-- A receive raises its error, or goes on in the same state without one (R182). -/
theorem runningOrEnded_receive {next : List Byte → State → State} (he : s.err = 0)
    (hnext : ∀ out t, t.fsm = s.fsm → t.err = 0 → RunningOrEnded (next out t)) (l : Nat) (mode : RxMode) :
    RunningOrEnded (receive l mode next s) := by
  obtain ⟨-, heq⟩ | ⟨-, e, heq, -⟩ | ⟨-, hdr, out, -, -, heq⟩ := receive_cases l mode next s <;> rw [heq]
  case inr.inr => exact hnext out _ rfl he
  all_goals exact .inr (ended_raise _ _)

theorem runningOrEnded_transmit_advance (hop : requestOf s.fsm = some op) (he : s.err = 0) (fcmd : Nibble)
    (d : List Byte) : RunningOrEnded (transmit fcmd d advance s) :=
  runningOrEnded_transmit he (fun _ hf het => runningOrEnded_advance (hf ▸ hop) het) fcmd d

theorem runningOrEnded_receiveSack (hop : requestOf s.fsm = some op) (he : s.err = 0) :
    RunningOrEnded (receiveSack s) :=
  runningOrEnded_receive he (fun _ _ hf het => runningOrEnded_advance (hf ▸ hop) het) _ _

theorem runningOrEnded_receiveTrep (hop : requestOf s.fsm = some op) (he : s.err = 0) (len : Byte) :
    RunningOrEnded (receiveTrep len s) := by
  refine runningOrEnded_receive he (fun out t hf het => ?_) _ _
  split
  · exact .inr (ended_complete (s := storeReply len out t) het)
  · exact runningOrEnded_advance (s := storeReply len out t) (hf ▸ hop) het

theorem runningOrEnded_receiveWack (hop : requestOf s.fsm = some op) (he : s.err = 0) :
    RunningOrEnded (receiveWack s) := by
  refine runningOrEnded_receive he (fun out t hf het => ?_) _ _
  simp only
  split
  · exact .inr (ended_complete het)
  · exact runningOrEnded_advance (s := { t with ack := out.headD 0 }) (hf ▸ hop) het

theorem runningOrEnded_sendTx (he : s.err = 0) : RunningOrEnded (sendTx s) :=
  runningOrEnded_transmit (next := fun t => complete (clearTracking t)) he
    (fun _ _ het => .inr (ended_complete het)) _ _

theorem runningOrEnded_recvRx (he : s.err = 0) : RunningOrEnded (recvRx s) := by
  refine runningOrEnded_receive he ?_ _ _
  exact fun _ _ _ het => .inr (ended_complete het)

theorem runningOrEnded_checkArgs (he : s.err = 0) : RunningOrEnded (checkArgs s) := by
  obtain ⟨-, -, x, hx, heq⟩ | ⟨-, heq⟩ | ⟨-, heq⟩ | ⟨-, heq⟩ := checkArgs_spec s <;> rw [heq]
  · exact runningOrEnded_goto hx he
  · exact .inl ⟨rfl, he⟩
  · exact .inr (ended_raise _ _)
  · exact .inr (ended_raise _ _)

theorem runningOrEnded_psCheck (he : s.err = 0) : RunningOrEnded (psCheck s) := by
  obtain ⟨-, heq⟩ | ⟨-, -, heq⟩ | ⟨-, -, heq⟩ := psCheck_spec s <;> rw [heq]
  · exact .inr (ended_complete he)
  · exact .inl ⟨rfl, he⟩
  · exact .inr (ended_raise _ _)

theorem ended_decRun (he : s.err = 0) : Ended (decRun s) := by
  obtain ⟨-, out, -, heq⟩ | ⟨e, -, heq⟩ := decRun_spec s <;> rw [heq]
  · exact ended_complete he
  · exact ended_raise _ _

end Actions

/-- One FSM step of a running request, state by state (R111). -/
theorem RunningClean.fsmStep {s : State} (h : RunningClean s) : RunningOrEnded (fsmStep s) := by
  obtain ⟨hb, he⟩ := h
  cases hs : s.fsm <;> simp only [Machine.fsmStep, hs]
  case idle | faulted => simp [busy, hs] at hb
  case checkArgs => exact runningOrEnded_checkArgs he
  case encRun => exact .inr (ended_complete he)
  case decRun => exact .inr (ended_decRun he)
  case sendTx => exact runningOrEnded_sendTx he
  case recvRx => exact runningOrEnded_recvRx he
  case psCheck => exact runningOrEnded_psCheck he
  case rrSetupTx | rrTrigTx | psRdSetupTx | psRdTrigTx =>
    exact runningOrEnded_transmit_advance (congrArg requestOf hs) he _ _
  case wrTx =>
    exact runningOrEnded_transmit_advance (s := clearForWrite s.reg s) (congrArg requestOf hs) he _ _
  case psWrTx =>
    exact runningOrEnded_transmit_advance (s := clearSpace s.spacel s) (congrArg requestOf hs) he _ _
  case rrSetupRx | psRdSetupRx => exact runningOrEnded_receiveSack (congrArg requestOf hs) he
  case rrTrigRx | psRdTrigRx => exact runningOrEnded_receiveTrep (congrArg requestOf hs) he _
  case wrRx | psWrRx => exact runningOrEnded_receiveWack (congrArg requestOf hs) he

theorem RunningOrEnded.fsmStep {s : State} (h : RunningOrEnded s) : RunningOrEnded (fsmStep s) := by
  obtain h | h := h
  · exact h.fsmStep
  · rw [fsmStep_of_not_busy h.not_busy]
    exact .inr h

theorem RunningOrEnded.fsmSteps {s : State} (h : RunningOrEnded s) (n : Nat) : RunningOrEnded (fsmSteps n s) := by
  induction n generalizing s with
  | zero => exact h
  | succ n ih => exact ih h.fsmStep

/-- Acceptance starts a request without an error (R110). -/
theorem runningClean_accept (op : BitVec 4) (sp : BitVec 1) (fc : Nibble) (s : State) :
    RunningClean (accept op sp fc s) := ⟨rfl, rfl⟩

theorem hostSide_fsmSteps (n : Nat) (s : State) : hostSide (fsmSteps n s) = hostSide s := by
  induction n generalizing s with
  | zero => rfl
  | succ n ih => exact (ih (fsmStep s)).trans (hostSide_fsmStep s)

/-- Settles O29: the run of `RequestIsFsmRun` ends with the request no longer running, and keeps what acceptance
latched. -/
theorem everyRequestEnds : Obligations.EveryRequestEnds := by
  intro s i op sp fc hi hr hf
  obtain ⟨n, -, -, hexec, hend, -⟩ := requestIsFsmRun s i op sp fc hi hr hf
  have hrun : RunningOrEnded (fsmSteps n (accept op sp fc s)) :=
    RunningOrEnded.fsmSteps (.inl (runningClean_accept op sp fc s)) n
  obtain ⟨hb, -⟩ | ⟨hdone, hstate⟩ := hrun
  case inl => rw [hend] at hb; cases hb
  case inr =>
    have hhost := hostSide_fsmSteps n (accept op sp fc s)
    exact ⟨_, hexec, hdone, hstate, congrArg HostSide.opl hhost, congrArg HostSide.spacel hhost,
      congrArg HostSide.fcmdl hhost⟩

end Sys2Proof.Machine
end

section
/-! Operand stability (R115, R118): no row and no FSM step changes the host's side or a byte below `RXBUF`. -/
namespace Sys2Proof.Machine

open Sys2Proof

/-- Two states share the host's side and every byte below `RXBUF`, with it `TXBUF`. -/
def SameOperands (s t : State) : Prop := hostSide t = hostSide s ∧ ∀ a, a < 0x600 → byteAt t a = byteAt s a

section Relation
variable {s t u : State}

theorem SameOperands.refl (s : State) : SameOperands s s := ⟨rfl, fun _ _ => rfl⟩

theorem SameOperands.trans (h : SameOperands s t) (h' : SameOperands t u) : SameOperands s u :=
  ⟨h'.1.trans h.1, fun a ha => (h'.2 a ha).trans (h.2 a ha)⟩

theorem sameOperands_of_mem (hhost : hostSide t = hostSide s) (hmem : t.mem = s.mem) : SameOperands s t :=
  ⟨hhost, fun a _ => byteAt_congr hmem (congrArg HostSide.period hhost) a⟩

/-- An action under a guard. -/
theorem SameOperands.guarded {p : Prop} [Decidable p] (h : SameOperands s t) :
    SameOperands s (if p then t else s) := by
  split
  · exact h
  · exact .refl s

/-- The fields and bytes that R115 and R118 name, read off two such states. -/
theorem SameOperands.operands (h : SameOperands s t) :
    t.reg = s.reg ∧ t.len = s.len ∧ t.page = s.page ∧ t.cfg = s.cfg ∧ t.resetIn = s.resetIn ∧
      t.sched = s.sched ∧ t.rdata = s.rdata ∧ t.period = s.period ∧ t.draws = s.draws ∧
      ∀ a, a < 0x600 → byteAt t a = byteAt s a := by
  obtain ⟨hhost, hbyte⟩ := h
  simp only [hostSide, HostSide.mk.injEq] at hhost
  obtain ⟨hcfg, -, -, -, hreg, hlen, hpage, -, hreset, hsched, hrdata, hperiod, hdraws⟩ := hhost
  exact ⟨hreg, hlen, hpage, hcfg, hreset, hsched, hrdata, hperiod, hdraws, hbyte⟩

end Relation

/-! ### The rows and the FSM's own actions -/

theorem sameOperands_transmit_advance (fcmd : Nibble) (d : List Byte) (s : State) :
    SameOperands s (transmit fcmd d advance s) :=
  sameOperands_of_mem (hostSide_transmit_advance fcmd d s) (transmit_advance_mem fcmd d s)

theorem sameOperands_sendFrame (fcmd : Nibble) (d : List Byte) (s : State) :
    SameOperands s (sendFrame fcmd d s) :=
  sameOperands_of_mem (hostSide_sendFrame fcmd d s)
    (transmit_mem (next := fun t => complete (clearTracking t)) (fun _ => rfl) fcmd d s)

/-- A receive writes from `RXBUF` on (R182). -/
theorem sameOperands_receiveSack (s : State) : SameOperands s (receiveSack s) :=
  ⟨hostSide_receiveSack s, fun _ ha => receiveSack_byteAt (.inl (by omega))⟩

theorem sameOperands_receiveTrep (len : Byte) (s : State) : SameOperands s (receiveTrep len s) :=
  ⟨hostSide_receiveTrep len s, fun _ ha => receiveTrep_byteAt (.inl ha) (.inl (by omega))⟩

theorem sameOperands_receiveWack (s : State) : SameOperands s (receiveWack s) :=
  ⟨hostSide_receiveWack s, fun _ ha => receiveWack_byteAt (by omega) (.inl (by omega))⟩

/-- A row acts in the states that carry it, and does nothing elsewhere (R93). -/
theorem sameOperands_row {i : Instr} {s t : State} (hi : commandOf i = none) (ht : exec i s = .next t) :
    SameOperands s t := by
  cases i
  case mRrs len r => cases ht; exact .guarded (sameOperands_transmit_advance _ _ s)
  case mRrt len => cases ht; exact .guarded (sameOperands_transmit_advance _ _ s)
  case mWr r data =>
    cases ht
    split
    · exact sameOperands_transmit_advance _ _ (clearForWrite r s)
    · exact sameOperands_transmit_advance _ _ (clearSpace s.spacel s)
    · exact .refl s
  case mSack => cases ht; exact .guarded (sameOperands_receiveSack s)
  case mTrep len => cases ht; exact .guarded (sameOperands_receiveTrep len s)
  case mWack => cases ht; exact .guarded (sameOperands_receiveWack s)
  case mWake => cases ht; exact .guarded (sameOperands_sendFrame 0 wakeMessage s)
  case fFrame fcmd d => cases ht; exact .guarded (sameOperands_sendFrame fcmd d s)
  all_goals cases hi

/-- What a state carries is a row, not a host command (R80, R82 to R87). -/
theorem commandOf_of_carried {s : State} {i : Instr} (hi : carried s = some i) : commandOf i = none := by
  cases hs : s.fsm <;> simp only [carried, hs, Option.some.injEq, reduceCtorEq] at hi <;> subst hi
  case sendTx =>
    unfold carriedBySend
    split <;> rfl
  all_goals rfl

/-- One FSM step: the row that the state carries, or the action of a state without one. -/
theorem sameOperands_fsmStep (s : State) : SameOperands s (fsmStep s) := by
  cases hc : carried s with
  | some i =>
    exact sameOperands_row (commandOf_of_carried hc) ((fsmTurn_of_carried hc).symm.trans (fsmTurn_eq_fsmStep s))
  | none =>
    refine ⟨hostSide_fsmStep s, fun a ha => ?_⟩
    cases hs : s.fsm <;> simp only [fsmStep, hs]
    case encRun => exact encRun_byteAt (.inl (by omega))
    case decRun => exact decRun_byteAt (.inl ha)
    case recvRx => exact recvRx_byteAt (.inl ha) (.inl (by omega))
    case checkArgs => exact (keepsByte_checkArgs s rfl).1
    case psCheck => exact (keepsByte_psCheck s rfl).1
    all_goals simp [carried, hs] at hc

theorem sameOperands_fsmSteps (n : Nat) (s : State) : SameOperands s (fsmSteps n s) := by
  induction n generalizing s with
  | zero => exact .refl s
  | succ n ih => exact (sameOperands_fsmStep s).trans (ih (fsmStep s))

/-- Settles O42: a row changes no operand, and a request is acceptance, which changes none, and a run of FSM steps. -/
theorem operandsStable : Obligations.OperandsStable := by
  intro i s t ht
  cases hi : commandOf i with
  | none => exact (sameOperands_row hi ht).operands
  | some request =>
    obtain ⟨op, sp, fc⟩ := request
    obtain ⟨run, hrun, hexec⟩ := exec_eq_command hi
    rw [hexec, Host.Outcome.next.injEq] at ht
    subst ht
    obtain ⟨-, heq⟩ | ⟨-, -, heq⟩ | ⟨-, -, heq⟩ := command_cases op sp fc run s <;> rw [heq]
    · exact (SameOperands.refl s).operands
    · obtain ⟨n, hn⟩ := hrun (accept op sp fc s)
      exact hn ▸ (sameOperands_fsmSteps n (accept op sp fc s)).operands
    · exact (SameOperands.refl s).operands

end Sys2Proof.Machine
end

section
/-! The command port (R110 to R114, R340): acceptance, the length check and the requests turned away. -/
namespace Sys2Proof.Machine

open Sys2Proof

/-! ### The `CMD` write -/

/-- While BUSY and while FAULTED a `CMD` write is dropped (R113, R114). -/
theorem command_of_not_idle {s : State} (hr : s.resetIn = false) (hf : s.fsm ≠ .idle) (op : BitVec 4)
    (sp : BitVec 1) (fc : Nibble) (run : State → State) : command op sp fc run s = drop s := by
  rw [command, hr, if_neg Bool.false_ne_true, if_neg hf]

/-- While reset is asserted it is ignored (R340). -/
theorem command_of_inReset {s : State} (hr : s.resetIn = true) (op : BitVec 4) (sp : BitVec 1) (fc : Nibble)
    (run : State → State) : command op sp fc run s = s := by
  rw [command, if_pos hr]

/-- Every other host write is ignored then too (R340). -/
theorem hostWrite_of_inReset {s : State} (hr : s.resetIn = true) (a : Nat) (v : Word) : hostWrite a v s = s := by
  rw [hostWrite, if_pos hr]

/-- Outside reset, a host write at offset 0 is a `CMD` write (R67). -/
theorem hostWrite_cmd {s : State} (hr : s.resetIn = false) (v : Word) :
    hostWrite 0x000 v s = writeCommand v s := by
  rw [hostWrite, hr, if_neg Bool.false_ne_true, if_pos rfl]

/-- Settles O25. -/
theorem acceptanceClearsAndLatches : Obligations.AcceptanceClearsAndLatches := by
  intro s v hr
  rw [hostWrite_cmd hr, writeCommand]
  refine ⟨fun hf => ?dropped, fun hf => ?accepted⟩
  case dropped => exact command_of_not_idle hr hf _ _ _ _
  case accepted => exact command_of_idle hr hf _ _ _ _

/-- Settles O28: every host command is one `CMD` write, whatever it runs once accepted. -/
theorem requestsTurnedAway : Obligations.RequestsTurnedAway := by
  intro s
  refine ⟨fun i op sp fc hi => ?_, fun hr a v => hostWrite_of_inReset hr a v⟩
  obtain ⟨run, -, hexec⟩ := exec_eq_command hi
  rw [hexec]
  refine ⟨fun hr hbf => ?dropped, fun hr => ?ignored⟩
  case dropped =>
    have hf : s.fsm ≠ .idle := by
      obtain hb | hf := hbf
      · exact (busy_eq_true_iff.mp hb).1
      · rw [hf]; decide
    rw [command_of_not_idle hr hf]
    rfl
  case ignored => rw [command_of_inReset hr]

/-! ### The length check -/

/-- The lengths of R112 that are out of range. -/
theorem lenInRange_eq_false {op : BitVec 4} {n : BitVec 16}
    (h : (op = 1 ∨ op = 3) ∧ 512 < n.toNat ∨ op = 2 ∧ 1026 < n.toNat ∨
      op = 4 ∧ n.msb = false ∧ 512 < n.toNat ∨ op = 5 ∧ 255 < n.toNat ∨ op = 6 ∧ 254 < n.toNat) :
    lenInRange op n = false := by
  obtain ⟨rfl | rfl, hn⟩ | ⟨rfl, hn⟩ | ⟨rfl, hneg, hn⟩ | ⟨rfl, hn⟩ | ⟨rfl, hn⟩ := h
  case inr.inr.inl =>
    rw [← Bool.not_eq_true, lenInRange_recv_iff, hneg]
    exact not_or.mpr ⟨Bool.false_ne_true, hn.not_ge⟩
  all_goals exact decide_eq_false hn.not_ge

/-- The operations without a length to check have every length in range. -/
theorem lenInRange_reserved {op : BitVec 4} (h : op = 0 ∨ 8 ≤ op.toNat) (n : BitVec 16) :
    lenInRange op n = true := by
  unfold lenInRange
  split
  case h_7 => rfl
  all_goals
    rename_i hop
    obtain rfl | h8 := h
    · cases hop
    · omega

/-- With its length out of range an operation ends in CHECK_ARGS (R112). -/
theorem checkArgs_of_not_lenInRange {s : State} (h : lenInRange s.opl s.len = false) :
    checkArgs s = raise .lenRange s := by
  obtain ⟨-, hl, -⟩ | ⟨h7, -⟩ | ⟨-, heq⟩ | ⟨hres, -⟩ := checkArgs_spec s
  · rw [h] at hl; cases hl
  · rw [h7] at h; cases h
  · exact heq
  · rw [lenInRange_reserved hres] at h; cases h

/-- A request that the argument check ends is the argument check alone. -/
theorem exec_of_checkArgs_ends {s : State} {i : Instr} {op : BitVec 4} {sp : BitVec 1} {fc : Nibble}
    (hi : commandOf i = some (op, sp, fc)) (hr : s.resetIn = false) (hf : s.fsm = .idle)
    (hend : busy (checkArgs (accept op sp fc s)) = false) :
    exec i s = .next (checkArgs (accept op sp fc s)) := by
  obtain ⟨n, hn, -, hexec, -⟩ := requestIsFsmRun s i op sp fc hi hr hf
  obtain ⟨m, rfl⟩ := Nat.exists_eq_add_of_le' hn
  have hfirst : fsmStep (accept op sp fc s) = checkArgs (accept op sp fc s) := rfl
  rw [hexec, fsmSteps, hfirst, fsmSteps_of_not_busy hend]

/-- A BADREQ right after acceptance records CHECK_ARGS as its phase and, for the two register operations, the register;
it records no page and leaves the tracked pages (R302). -/
theorem raise_badReq_accept {e : Cause} (he : classOf e = .badReq) {op : BitVec 4} (h7 : op ≠ 7) (sp : BitVec 1)
    (fc : Nibble) (s : State) :
    raise e (accept op sp fc s) =
      { accept op sp fc s with
        fsm := .idle
        done := true
        err := 5
        cause := causeCode e
        errPhase := 19
        errReg := if op = 5 ∨ op = 6 then s.reg else 0 } := by
  have hkeep : invalidates e (accept op sp fc s) = false := invalidates_eq_false (.inl he)
  rw [raise, hkeep, he]
  simp only [accept_opl, h7, if_false, Bool.not_false, Bool.and_true, reduceCtorEq]
  rfl

/-- Settles O27: the argument check ends the request, in BADREQ. -/
theorem lengthOutOfRange : Obligations.LengthOutOfRange := by
  intro s i op sp fc hi hr hf hlen
  have hcheck : checkArgs (accept op sp fc s) = raise .lenRange (accept op sp fc s) :=
    checkArgs_of_not_lenInRange (s := accept op sp fc s) (lenInRange_eq_false hlen)
  have h7 : op ≠ 7 := by rintro rfl; revert hlen; simp
  rw [exec_of_checkArgs_ends hi hr hf (hcheck ▸ busy_raise _ _), hcheck, raise_badReq_accept rfl h7]
  rfl

end Sys2Proof.Machine
end

section
/-! The reverse cipher table is the inverse of the forward table (41_cipher.md R133, R134), and the correctness gate
(R139) follows from the distinct symbols of R131. -/
namespace Sys2Proof.Machine

open Sys2Proof

/-- Every byte is in the list of bytes. -/
theorem mem_allBytes (b : Byte) : b ∈ allBytes :=
  List.mem_map.mpr ⟨b.toNat, List.mem_range.mpr b.isLt, BitVec.ofNat_toNat 8 b⟩

/-- The list of bytes names no byte twice. -/
theorem nodup_allBytes : allBytes.Nodup := by
  refine List.nodup_range.map_on fun x hx y hy hxy => ?_
  rw [List.mem_range] at hx hy
  have hmod : x % 256 = y % 256 := congrArg BitVec.toNat hxy
  rwa [Nat.mod_eq_of_lt hx, Nat.mod_eq_of_lt hy] at hmod

/-- The list of nibbles names no nibble twice. -/
theorem nodup_nibbles : nibbles.Nodup := by decide

/-- An entry of the reverse table names a nibble whose symbol it stands for, whatever the forward table (R133). -/
theorem symbol_of_reverse {c : Config} {w : Byte} {n : Nibble} (h : reverse c w = some n) : c.symbol n = w :=
  eq_of_beq (List.find?_some (p := fun m => c.symbol m == w) h)

/-- A byte is a symbol exactly when its reverse entry is valid (R133). -/
theorem reverse_isSome_iff {c : Config} {w : Byte} : (reverse c w).isSome = true ↔ w ∈ nibbles.map c.symbol := by
  simp only [reverse, List.find?_isSome, beq_iff_eq, List.mem_map]

/-- With distinct symbols the valid reverse entries are those of the sixteen symbols, each once (R131, R134). -/
theorem validReverse_perm_symbols {c : Config} (hc : c.injective = true) :
    (allBytes.filter fun w => (reverse c w).isSome).Perm (nibbles.map c.symbol) := by
  have hsymbols : (nibbles.map c.symbol).Nodup := nodup_nibbles.map fun _ _ => symbol_inj hc
  refine (List.perm_ext_iff_of_nodup (nodup_allBytes.filter _) hsymbols).mpr fun w => ?_
  rw [List.mem_filter, reverse_isSome_iff, and_iff_right (mem_allBytes w)]

/-- Exactly sixteen reverse entries are valid (R134). -/
theorem validReverse_length {c : Config} (hc : c.injective = true) :
    (allBytes.filter fun w => (reverse c w).isSome).length = 16 :=
  (validReverse_perm_symbols hc).length_eq

/-- R134's check passes on every record with distinct symbols. -/
theorem tablesInverse_of_injective {c : Config} (hc : c.injective = true) : c.tablesInverse = true := by
  simp only [Config.tablesInverse, Bool.and_eq_true, List.all_eq_true, beq_iff_eq]
  refine ⟨⟨fun n _ => reverse_symbol hc n, fun w _ => ?_⟩, validReverse_length hc⟩
  exact (Option.all_eq_true ..).mpr fun n hn => beq_iff_eq.mpr (symbol_of_reverse hn)

/-- R138's check passes on every record with distinct symbols. -/
theorem bytesRoundTrip_of_injective {c : Config} (hc : c.injective = true) : c.bytesRoundTrip = true :=
  List.all_eq_true.mpr fun b _ => beq_iff_eq.mpr (decPair_lanes hc b)

/-- The correctness gate refuses no table with distinct symbols (R131, R139). -/
theorem gate_of_injective {c : Config} (hc : c.injective = true) : c.gate = true := by
  rw [Config.gate, tablesInverse_of_injective hc, bytesRoundTrip_of_injective hc, Bool.and_self]

/-- Settles O5: from the distinct symbols alone, and the gate from the laws that it checks. -/
theorem cipherTablesInverse : Obligations.CipherTablesInverse := fun _ hc =>
  ⟨reverse_symbol hc, fun _ _ => symbol_of_reverse, validReverse_length hc,
    fun b => ⟨_, _, rfl, decPair_lanes hc b⟩, gate_of_injective hc⟩

end Sys2Proof.Machine
end

section
/-! The frame codec (42_frame_codec.md): the shape of an encoded frame (R153, R154), the content of a decoded one
(R158), the header checks of the decoder (R157, R161) and the round trip without and with them (R160). -/
namespace Sys2Proof.Machine

open Sys2Proof

/-! ### Headers -/

/-- The index of a header is even (R88). -/
theorem headerIndex_even : ∀ k : Nibble, (headerIndex k).getLsbD 0 = false := by decide

/-- R131 `header_not_terminator`, of the header of any frame command. -/
theorem Params.header_ne_terminator (p : Params) (k : Nibble) : header p.val k ≠ p.val.terminator := by
  obtain ⟨-, -, -, -, -, -, h, -⟩ := Params.checks p
  rw [Config.headerNotTerminator, List.all_eq_true] at h
  have hk := h (headerIndex k) (mem_nibbles _)
  rwa [headerIndex_even, Bool.false_or, bne_iff_ne] at hk

/-- Under `S_GK` a mask leaves no symbol of an even nibble a symbol (R141). -/
theorem reverse_header_default : ∀ k : Nibble, reverse Config.default (header Config.default k) = none := by decide

/-- Under `S_GK`, `HDR_DEC_MASKED` decodes a header to its own index (R156). -/
theorem hdrDecode_header_masked :
    ∀ k : Nibble, hdrDecode Config.maskedHeaders (header Config.maskedHeaders k) = some (headerIndex k) := by decide

/-- The sentinel check reads bits 3..1 of the nibble (R157). -/
theorem sentinelOk_iff {c : Config} {h : Nibble} : sentinelOk c h = true ↔ h.extractLsb' 1 3 = c.replySentinel :=
  beq_iff_eq

/-- The commands whose header index carries the default sentinel, 7 above bit 0 (R157, R160). -/
theorem sentinelOk_headerIndex_masked :
    ∀ k : Nibble, sentinelOk Config.maskedHeaders (headerIndex k) = true ↔ k = 7 ∨ k = 15 := by decide

/-! ### The shape of an encoded frame -/

/-- Every data byte of a frame is a symbol (R154). -/
theorem exists_symbol_of_mem_encPairs {c : Config} {d : List Byte} {w : Byte} (h : w ∈ d.flatMap (encPair c)) :
    ∃ n, w = c.symbol n := by
  obtain ⟨b, -, hw⟩ := List.mem_flatMap.mp h
  obtain rfl | rfl : w = c.symbol (loNibble b) ∨ w = c.symbol (hiNibble b) := by simpa [encPair] using hw
  · exact ⟨_, rfl⟩
  · exact ⟨_, rfl⟩

/-- The data positions of a frame are 1 to `2m` (R154). -/
theorem exists_symbol_at_dataPosition (c : Config) (k : Nibble) {d : List Byte} {i : Nat} (h1 : 1 ≤ i)
    (h2 : i ≤ 2 * d.length) : ∃ n, (encodeFrame c k d)[i]? = some (c.symbol n) := by
  obtain ⟨j, rfl⟩ := Nat.exists_eq_add_of_le' h1
  have hj : j < (d.flatMap (encPair c)).length := by rw [flatMap_encPair_length]; omega
  obtain ⟨n, hn⟩ := exists_symbol_of_mem_encPairs (List.getElem_mem hj)
  refine ⟨n, ?_⟩
  rw [encodeFrame, List.getElem?_cons_succ, List.getElem?_append_left hj, List.getElem?_eq_getElem hj, hn]

/-- The terminator stands behind the last data position (R150). -/
theorem encodeFrame_getElem?_last (c : Config) (k : Nibble) (d : List Byte) :
    (encodeFrame c k d)[2 * d.length + 1]? = some c.terminator := by
  have hlast := replyFrame_getLast? c (header c k) d
  rwa [List.getLast?_eq_getElem?, replyFrame_length] at hlast

/-- Settles O6. -/
theorem encodedFrameShape : Obligations.EncodedFrameShape := by
  refine ⟨fun p k d => ?_, reverse_header_default⟩
  have hlen := encodeFrame_length p.val k d
  refine ⟨hlen, fun h => by omega, rfl, Params.header_ne_terminator p k, fun i h1 h2 => ?symbol,
    encodeFrame_getElem?_last p.val k d⟩
  obtain ⟨n, hn⟩ := exists_symbol_at_dataPosition p.val k h1 h2
  exact ⟨n, hn, Params.symbol_ne_terminator p n⟩

/-! ### The content of a decoded frame -/

/-- The checks a wire sequence passes before its header is looked at (R155). -/
structure FrameShaped (c : Config) (w : List Byte) : Prop where
  two_le : 2 ≤ w.length
  even : w.length % 2 = 0
  terminated : w.getLast? = some c.terminator

/-- A wire sequence that decodes passed every check of R155, and its pairs are the bytes decoded. -/
theorem checks_of_decodeFrame_ok {c : Config} {w out : List Byte} {h : Nibble} (hok : decodeFrame c w = .ok (h, out)) :
    FrameShaped c w ∧ goodHeader c (w.headD 0) h ∧ decodePairs c (frameData w) = some out := by
  obtain ⟨e, he, -⟩ | ⟨_, _, ho, htwo, heven, hterm, hdec, hsent, hpairs⟩ := decodeFrame_cases c w
  · rw [he] at hok; cases hok
  · rw [ho] at hok
    cases hok
    exact ⟨⟨htwo, heven, hterm⟩, ⟨hdec, hsent⟩, hpairs⟩

/-- A pair decodes when both bytes are symbols, to the byte of their nibbles (R137). -/
theorem decPair_eq_some_iff {c : Config} {wl wh b : Byte} :
    decPair c wl wh = some b ↔
      ∃ nl nh, reverse c wl = some nl ∧ reverse c wh = some nh ∧ joinNibbles nl nh = b := by
  unfold decPair
  cases reverse c wl <;> cases reverse c wh <;> simp

/-- Pairs decode one by one, from the front (R155). -/
theorem decodePairs_cons_eq_some_iff {c : Config} {wl wh : Byte} {rest out : List Byte} :
    decodePairs c (wl :: wh :: rest) = some out ↔
      ∃ b o, decPair c wl wh = some b ∧ decodePairs c rest = some o ∧ b :: o = out := by
  rw [decodePairs]
  cases decPair c wl wh <;> cases decodePairs c rest <;> simp

/-- Decoded byte `i` comes from the pair at `2i` (R158). -/
theorem exists_decPair_of_decodePairs (c : Config) :
    ∀ (w out : List Byte) (i : Nat), decodePairs c w = some out → i < out.length →
      ∃ wl wh b, w[2 * i]? = some wl ∧ w[2 * i + 1]? = some wh ∧ decPair c wl wh = some b ∧ out[i]? = some b
  | [], out, i, h, hi => by cases h; cases hi
  | [_], out, i, h, hi => by cases h
  | wl :: wh :: rest, out, i, h, hi => by
    obtain ⟨b, o, hb, ho, rfl⟩ := decodePairs_cons_eq_some_iff.mp h
    cases i with
    | zero => exact ⟨wl, wh, b, rfl, rfl, hb, rfl⟩
    | succ i => exact exists_decPair_of_decodePairs c rest o i ho (Nat.lt_of_succ_lt_succ hi)

/-- A byte among the data positions stands one place further on in the wire sequence. -/
theorem getElem?_of_frameData {w : List Byte} {i : Nat} {b : Byte} (h : (frameData w)[i]? = some b) :
    w[i + 1]? = some b := by
  rw [frameData, List.getElem?_dropLast] at h
  split at h
  · rwa [List.getElem?_drop, Nat.add_comm] at h
  · cases h

/-- Settles O9. -/
theorem decodedContent : Obligations.DecodedContent := by
  intro c w h out hok
  have hlen := decodeFrame_length hok
  refine ⟨by omega, fun i hi => ?_⟩
  obtain ⟨-, -, hpairs⟩ := checks_of_decodeFrame_ok hok
  obtain ⟨wl, wh, b, hl, hh, hb, hout⟩ := exists_decPair_of_decodePairs c _ _ i hpairs hi
  obtain ⟨nl, nh, hnl, hnh, rfl⟩ := decPair_eq_some_iff.mp hb
  exact ⟨wl, wh, nl, nh, getElem?_of_frameData hl, getElem?_of_frameData hh, hnl, hnh, hout⟩

/-! ### The header checks of the decoder -/

theorem frameShaped_replyFrame (c : Config) (h : Byte) (d : List Byte) : FrameShaped c (replyFrame c h d) := by
  have hlen := replyFrame_length c h d
  exact ⟨by omega, by omega, replyFrame_getLast? c h d⟩

/-- A header that does not decode fails the frame, whatever follows it (R161). -/
theorem FrameShaped.decodeFrame_hdrSymbol {c : Config} {w : List Byte} (hw : FrameShaped c w)
    (h : hdrDecode c (w.headD 0) = none) : decodeFrame c w = .error .hdrSymbol := by
  obtain ⟨htwo, heven, hterm⟩ := hw
  rw [decodeFrame, if_neg (by omega), if_neg (by omega), if_neg (not_not.mpr hterm)]
  simp only [h]

/-- And so does one without the sentinel (R161). -/
theorem FrameShaped.decodeFrame_hdrSentinel {c : Config} {w : List Byte} (hw : FrameShaped c w) {h : Nibble}
    (hdec : hdrDecode c (w.headD 0) = some h) (hsent : sentinelOk c h = false) :
    decodeFrame c w = .error .hdrSentinel := by
  obtain ⟨htwo, heven, hterm⟩ := hw
  rw [decodeFrame, if_neg (by omega), if_neg (by omega), if_neg (not_not.mpr hterm)]
  simp only [hdec, hsent, Bool.false_eq_true, if_false]

/-- Settles O8. -/
theorem sentinelLaw : Obligations.SentinelLaw := by
  intro c w htwo heven hterm
  have hw : FrameShaped c w := ⟨htwo, heven, hterm⟩
  refine ⟨hw.decodeFrame_hdrSymbol, fun h hdec hne => hw.decodeFrame_hdrSentinel hdec ?_⟩
  exact Bool.eq_false_iff.mpr (mt sentinelOk_iff.mp hne)

/-! ### The round trip -/

/-- Without the header checks every frame decodes to its bytes (R159, R160). -/
theorem decodeBody_replyFrame (p : Params) (h : Byte) (d : List Byte) :
    decodeBody p.val (replyFrame p.val h d) = .ok d := by
  obtain ⟨htwo, heven, hterm⟩ := frameShaped_replyFrame p.val h d
  rw [decodeBody, if_neg (by omega), if_neg (by omega), if_neg (not_not.mpr hterm)]
  simp only [frameData_replyFrame, decodePairs_flatMap_encPair (params_injective p)]

/-- With them, a frame decodes exactly when its header passes both (R155, R160). -/
theorem decodeFrame_replyFrame_ok_iff (p : Params) (h : Byte) (d : List Byte) :
    (∃ x, decodeFrame p.val (replyFrame p.val h d) = .ok x) ↔ ∃ n, goodHeader p.val h n := by
  constructor
  case mp =>
    rintro ⟨⟨n, out⟩, hok⟩
    obtain ⟨-, hgood, -⟩ := checks_of_decodeFrame_ok hok
    exact ⟨n, hgood⟩
  case mpr =>
    rintro ⟨n, hn⟩
    exact ⟨_, decodeFrame_replyFrame p hn d⟩

/-- The record with `HDR_DEC_MASKED`, with its proof. -/
def maskedParams : Params := ⟨Config.maskedHeaders, Config.maskedHeaders_wf, Config.maskedHeaders_gate⟩

/-- Under `HDR_DEC_MASKED` and `S_GK`, the commands whose header passes both checks (R160). -/
theorem exists_goodHeader_masked_iff {k : Nibble} :
    (∃ n, goodHeader Config.maskedHeaders (header Config.maskedHeaders k) n) ↔ k = 7 ∨ k = 15 := by
  simp only [goodHeader, hdrDecode_header_masked, Option.some.injEq, exists_eq_left',
    sentinelOk_headerIndex_masked]

/-- Settles O7: a frame is shaped as a reply is, so the laws of replies hold of it, with its own header. -/
theorem frameRoundTrip : Obligations.FrameRoundTrip := by
  refine ⟨fun p k d _ => ⟨?body, ?checked⟩, fun k d _ => ⟨?rev, ?masked⟩⟩
  case body => exact decodeBody_replyFrame p (header p.val k) d
  case checked =>
    simp only [← sentinelOk_iff]
    exact decodeFrame_replyFrame_ok_iff p (header p.val k) d
  case rev =>
    exact (frameShaped_replyFrame Config.default (header Config.default k) d).decodeFrame_hdrSymbol
      (reverse_header_default k)
  case masked =>
    exact (decodeFrame_replyFrame_ok_iff maskedParams (header Config.maskedHeaders k) d).trans
      exists_goodHeader_masked_iff

end Sys2Proof.Machine
end

section
/-! The codec operations ENC and DEC (42_frame_codec.md R162, R163): the argument check, then one state that encodes or
decodes. -/
namespace Sys2Proof.Machine

open Sys2Proof

/-! ### A request of one state after the argument check -/

/-- An accepted request that the argument check sends to its one state performs that state's action (R110 to R112). -/
theorem command_of_checkArgs_goto {s : State} (hr : s.resetIn = false) (hf : s.fsm = .idle) {op : BitVec 4}
    {sp : BitVec 1} {fc : Nibble} {x : FsmState}
    (hcheck : checkArgs (accept op sp fc s) = goto x (accept op sp fc s)) (f : State → State) :
    command op sp fc (fun t => phase x f (phase .checkArgs checkArgs t)) s = f (goto x (accept op sp fc s)) := by
  rw [command_of_idle hr hf, phase_of_eq (accept_fsm op sp fc s), hcheck, phase_of_eq (goto_fsm x _)]

/-- CHECK_ARGS lets ENC past with a length that fits `TXBUF` (R112). -/
theorem checkArgs_enc {s : State} (hop : s.opl = 1) (hlen : s.len.toNat ≤ txCap) : checkArgs s = goto .encRun s := by
  have hcheck : checkArgs s = checkLen (s.len.toNat ≤ txCap) .encRun s := by rw [checkArgs, hop]; rfl
  rw [hcheck, checkLen, if_pos (decide_eq_true hlen)]

/-- And DEC with a length that fits `WIREBUF` (R112). -/
theorem checkArgs_dec {s : State} (hop : s.opl = 2) (hlen : s.len.toNat ≤ wireCap) :
    checkArgs s = goto .decRun s := by
  have hcheck : checkArgs s = checkLen (s.len.toNat ≤ wireCap) .decRun s := by rw [checkArgs, hop]; rfl
  rw [hcheck, checkLen, if_pos (decide_eq_true hlen)]

/-! ### ENC -/

/-- Settles O17. -/
theorem encRequestResult : Obligations.EncRequestResult := by
  intro s sp fc hr hf hlen
  have hcheck : checkArgs (accept 1 sp fc s) = goto .encRun (accept 1 sp fc s) := checkArgs_enc rfl hlen
  rw [exec, execEnc, command_of_checkArgs_goto hr hf hcheck]
  simp only [encRun, encodeFrame_length, txPayload_length]
  rfl

/-! ### DEC -/

/-- A sequence that decodes records its header nibble as valid (R155, R156). -/
theorem recordHeader_of_decodes {s : State} {w out : List Byte} {h : Nibble}
    (hok : decodeFrame s.cfg.val w = .ok (h, out)) :
    recordHeader w s = { s with rxhdrV := true, rxhdr := h } := by
  obtain ⟨⟨htwo, -, -⟩, ⟨hdec, -⟩, -⟩ := checks_of_decodeFrame_ok hok
  cases w with
  | nil => cases htwo
  | cons w0 rest =>
    rw [List.headD_cons] at hdec
    have hx : headerExtract s.cfg.val w0 = (true, h) := by rw [headerExtract, hdec]
    simp only [recordHeader, hx]

/-- Of bytes in a buffer, the header recorded is that of the first, if there is one (R155). -/
theorem recordHeader_bytesAt (t s : State) (a n : Nat) :
    recordHeader (bytesAt t a n) s =
      { s with
        rxhdrV := if n = 0 then s.rxhdrV else (headerExtract s.cfg.val (byteAt t a)).1
        rxhdr := if n = 0 then s.rxhdr else (headerExtract s.cfg.val (byteAt t a)).2 } := by
  cases n with
  | zero => rfl
  | succ n => simp [bytesAt, List.range_succ_eq_map, recordHeader]

/-- The decoder raises FramingErrors alone (R155). -/
theorem classOf_of_decodeFrame_error {c : Config} {w : List Byte} {e : Cause} (h : decodeFrame c w = .error e) :
    classOf e = .framing := by
  obtain ⟨e', he, hclass⟩ | ⟨_, _, hok, -⟩ := decodeFrame_cases c w
  · rw [he] at h; cases h; exact hclass
  · rw [hok] at h; cases h

/-- A FramingError of DEC ends the request in IDLE; it records no register and no page, and leaves the tracked pages
(R302, R304, R249). -/
theorem raise_framing_dec {e : Cause} (he : classOf e = .framing) {s : State} (hop : s.opl = 2) :
    raise e s =
      { s with
        fsm := .idle
        done := true
        err := 2
        cause := causeCode e
        errPhase := fsmCode s.fsm
        errReg := 0
        errPage := 0
        errSpace := 0
        rlen := 0 } := by
  have hkeep : invalidates e s = false := invalidates_eq_false (.inr (by rw [hop]; rfl))
  rw [raise, hkeep, he, hop]
  simp only [Bool.not_false, Bool.and_true]
  rfl

/-- Settles O18: the header is recorded first, from the decoder's own answer on success and from the first byte on an
error. -/
theorem decRequestResult : Obligations.DecRequestResult := by
  intro s sp fc hr hf hlen
  have hcheck : checkArgs (accept 2 sp fc s) = goto .decRun (accept 2 sp fc s) := checkArgs_dec rfl hlen
  rw [exec, execDec, command_of_checkArgs_goto hr hf hcheck]
  generalize ht : goto .decRun (accept 2 sp fc s) = t
  have hpay : wirePayload t = bytesAt s 0x800 s.len.toNat := by rw [← ht]; rfl
  have hcfg : t.cfg = s.cfg := by rw [← ht]; rfl
  refine ⟨fun h out hok => ?ok, fun e herr => ?error⟩
  case ok =>
    rw [← hpay, ← hcfg] at hok
    rw [decRun]
    simp only [hok, recordHeader_of_decodes hok]
    rw [← ht]
    rfl
  case error =>
    have hop : (recordHeader (wirePayload t) t).opl = 2 := by rw [recordHeader_opl, ← ht]; rfl
    rw [← hpay, ← hcfg] at herr
    rw [decRun]
    simp only [herr, raise_framing_dec (classOf_of_decodeFrame_error herr) hop]
    rw [hpay, recordHeader_bytesAt, ← ht]
    rfl

end Sys2Proof.Machine
end

section
/-! Length accounting of a receive (43_transport.md R182, R184, R190), and the rows whose transmit fails (R180). -/
namespace Sys2Proof.Machine

open Sys2Proof

/-! ### Length accounting -/

/-- A receive that does not time out saw its frame end (R182, R183). -/
theorem collect_ended_of_rxFrame {l : Nat} {mode : RxMode} {s t : State} {r : Except Cause (List Byte)}
    (h : rxFrame l mode s = (r, t)) (hr : r ≠ .error .rxTimeout) :
    (collect s.cfg.val.terminator (wireWindow l) 0 s.link.rx).2.2 = true := by
  obtain ⟨-, heq⟩ | ⟨hend, -⟩ | ⟨hend, -⟩ := rxFrame_cases l mode s
  case inl =>
    rw [heq] at h
    cases h
    exact absurd rfl hr
  all_goals exact hend

/-- The bytes a receive answers were decoded from what it took, and passed the check of its mode (R155, R184). -/
theorem decoded_of_rxFrame_ok {l : Nat} {mode : RxMode} {s t : State} {out : List Byte}
    (h : rxFrame l mode s = (.ok out, t)) :
    (∃ hdr, decodeFrame s.cfg.val (collect s.cfg.val.terminator (wireWindow l) 0 s.link.rx).1 = .ok (hdr, out)) ∧
      modeCheck l mode out.length = none := by
  obtain ⟨-, heq⟩ | ⟨-, e, heq, -⟩ | ⟨-, hdr, o, hdec, hmode, heq⟩ := rxFrame_cases l mode s <;> rw [heq] at h <;>
    cases h
  exact ⟨⟨hdr, hdec⟩, hmode⟩

/-- EXACT lets past the length asked for alone (R184). -/
theorem modeCheck_exact_eq_none_iff {l k : Nat} : modeCheck l .exact k = none ↔ k = l := by
  simp [modeCheck]

/-- Settles O11: what a receive took is what the reception loop collected, and a decoded sequence has two wire bytes
for each logical one, and two more. -/
theorem receiveLengthAccounting : Obligations.ReceiveLengthAccounting := by
  intro l mode s t r h
  obtain ⟨-, -, hcount, hrx⟩ := rxFrame_leaves h
  obtain ⟨hroom, hended, -⟩ := collect_spec s.cfg.val.terminator (wireWindow l) 0 s.link.rx
  refine ⟨_, hroom, hcount, fun _ => ?timeout, fun hr => ?ended, fun out hout => ?ok⟩
  case timeout =>
    obtain ⟨tail, hfront, rfl | rfl⟩ := collect_takes_front s.cfg.val.terminator (wireWindow l) 0 s.link.rx
    · exact .inl (hrx ▸ hfront)
    · exact .inr (hrx ▸ hfront)
  case ended =>
    rw [hrx]
    exact hended (collect_ended_of_rxFrame h hr)
  case ok =>
    subst hout
    obtain ⟨⟨hdr, hdec⟩, hmode⟩ := decoded_of_rxFrame_ok h
    have hlen := decodeFrame_length hdec
    refine ⟨?_, fun _ => hlen⟩
    rintro rfl
    rw [hlen, modeCheck_exact_eq_none_iff.mp hmode]

/-! ### A transmit that fails -/

/-- A TX state's action whose transmit fails after `j` bytes: those bytes of the frame are out, and `TX_FAIL` is raised
(R180). -/
theorem transmit_fail {s : State} {j : Nat} (h : s.link.tx.head? = some (.fail j)) (fcmd : Nibble) (d : List Byte)
    (next : State → State) :
    transmit fcmd d next s =
      raise .txFail { s with
        txf := encodeFrame s.cfg.val fcmd d
        link := { s.link with
          tx := s.link.tx.drop 1
          out := s.link.out ++ (encodeFrame s.cfg.val fcmd d).take j } } := by
  obtain ⟨rest, htx⟩ := List.head?_eq_some_iff.mp h
  simp only [transmit, txFrame, drawTx, htx]
  rfl

/-- The row SEND_TX carries has the wire bytes of SEND's frame, also under the name of M-WAKE (R86, R186). -/
theorem wireOf_carriedBySend (c : Config) (s : State) :
    wireOf c (carriedBySend s) = encodeFrame c s.fcmdl (txPayload s) := by
  unfold carriedBySend
  split
  case isTrue h =>
    obtain ⟨hcmd, hpay⟩ := h
    rw [hcmd, hpay]
    rfl
  case isFalse => rfl

/-- A transmitted row's step is the transmit of its wire bytes, in a state that differs in the tracking alone
(R21, R220, R242). -/
theorem fsmStep_transmits {s : State} {i : Instr} (hi : carried s = some i) (hw : wireOf s.cfg.val i ≠ []) :
    ∃ fcmd d next u, fsmStep s = transmit fcmd d next u ∧ wireOf s.cfg.val i = encodeFrame u.cfg.val fcmd d ∧
      u.fsm = s.fsm ∧ u.mem = s.mem ∧ u.link = s.link := by
  cases hs : s.fsm <;> simp only [carried, hs, Option.some.injEq, reduceCtorEq] at hi <;> subst hi <;>
    simp only [fsmStep, hs]
  case sendTx => exact ⟨_, _, _, s, rfl, wireOf_carriedBySend _ s, hs, rfl, rfl⟩
  case rrSetupTx | rrTrigTx | psRdSetupTx | psRdTrigTx => exact ⟨_, _, _, s, rfl, rfl, hs, rfl, rfl⟩
  case wrTx => exact ⟨_, _, _, clearForWrite s.reg s, rfl, rfl, hs, rfl, rfl⟩
  case psWrTx => exact ⟨_, _, _, clearSpace s.spacel s, rfl, rfl, hs, rfl, rfl⟩
  all_goals exact absurd rfl hw

/-- Settles O34: the row is the step of its TX state. -/
theorem transmitFailureFaults : Obligations.TransmitFailureFaults := by
  intro s j i hj hi hw
  obtain ⟨fcmd, d, next, u, hstep, hwire, hfsm, hmem, hlink⟩ := fsmStep_transmits hi hw
  have hexec : exec i s = .next (transmit fcmd d next u) := by
    rw [← fsmTurn_of_carried hi, fsmTurn_eq_fsmStep, hstep]
  rw [transmit_fail (hlink ▸ hj)] at hexec
  refine ⟨_, hexec, rfl, rfl, rfl, rfl, ?_, rfl, hmem, ?_, ?_⟩
  · rw [← hfsm]; rfl
  · rw [← hlink]; rfl
  · rw [← hlink, hwire]; rfl

end Sys2Proof.Machine
end

section
/-! SEND (43_transport.md R186): the argument check, then the one TX state. -/
namespace Sys2Proof.Machine

open Sys2Proof

/-- An error of a link operation other than SELECT_PAGE and BADREQ clears both valid bits; it records the register for
the two register operations, and no page (R302 to R304, R249). -/
theorem raise_of_linkOp {e : Cause} (he : classOf e ≠ .badReq) {s : State} (hop : isLinkOp s.opl = true)
    (h7 : s.opl ≠ 7) :
    raise e s =
      { s with
        fsm := if classOf e = .io then .faulted else .idle
        done := true
        err := errCode (classOf e)
        cause := causeCode e
        errPhase := fsmCode s.fsm
        errReg := if s.opl = 5 ∨ s.opl = 6 then s.reg else 0
        errPage := 0
        errSpace := 0
        rlen := 0
        mainValid := false
        subValid := false } := by
  have hclear : invalidates e s = true := by rw [invalidates, hop, Bool.and_true, bne_iff_ne]; exact he
  simp only [raise, hclear, h7, if_false, Bool.not_true, Bool.and_false]

/-- CHECK_ARGS lets SEND past with a length that fits `TXBUF` (R112). -/
theorem checkArgs_send {s : State} (hop : s.opl = 3) (hlen : s.len.toNat ≤ txCap) :
    checkArgs s = goto .sendTx s := by
  have hcheck : checkArgs s = checkLen (s.len.toNat ≤ txCap) .sendTx s := by rw [checkArgs, hop]; rfl
  rw [hcheck, checkLen, if_pos (decide_eq_true hlen)]

/-- Settles O13: one transmit after the argument check, with its two answers. -/
theorem sendRequestResult : Obligations.SendRequestResult := by
  intro s sp fc hr hf hlen
  have hcheck : checkArgs (accept 3 sp fc s) = goto .sendTx (accept 3 sp fc s) := checkArgs_send rfl hlen
  rw [exec, execSend, command_of_checkArgs_goto hr hf hcheck, sendTx]
  refine ⟨fun htx => ?ok, fun j hj => ?fail⟩
  case ok =>
    rw [sendFrame_of_txSucceeds (s := goto .sendTx (accept 3 sp fc s)) htx]
    rfl
  case fail =>
    rw [sendFrame, transmit_fail (s := goto .sendTx (accept 3 sp fc s)) hj,
      raise_of_linkOp (by decide) rfl (by simp)]
    rfl

end Sys2Proof.Machine
end

section
/-! Receives that end in an error (43_transport.md R182 to R184): a timeout, a reply that the mode refuses, and a reply
longer than the window. -/
namespace Sys2Proof.Machine

open Sys2Proof

/-! ### The reception loop on bytes that end no frame -/

/-- Bytes without a terminator from wire index 1 on are taken, and the loop goes on behind them (R182). -/
theorem collect_append_of_no_terminator {term : Byte} (q : List RxDraw) (room : Nat) (ws : List Byte) :
    ∀ {n : Nat}, (∀ i, 1 ≤ n + i → ws[i]? ≠ some term) →
      collect term (ws.length + room) n (arriving ws ++ q) =
        (ws ++ (collect term room (n + ws.length) q).1, (collect term room (n + ws.length) q).2) := by
  induction ws with
  | nil =>
    intro n _
    rw [List.length_nil, Nat.zero_add]
    rfl
  | cons b ws ih =>
    intro n hterm
    have hb : ¬ (1 ≤ n ∧ b = term) := by
      rintro ⟨hn, rfl⟩
      exact hterm 0 hn rfl
    have hstep : collect term (ws.length + room + 1) n (arriving (b :: ws) ++ q) =
        (b :: (collect term (ws.length + room) (n + 1) (arriving ws ++ q)).1,
          (collect term (ws.length + room) (n + 1) (arriving ws ++ q)).2) := if_neg hb
    have hws : ∀ i, 1 ≤ n + 1 + i → ws[i]? ≠ some term := fun i _ => hterm (i + 1) (by omega)
    rw [List.length_cons, Nat.add_right_comm _ 1 room, hstep, ih hws, Nat.add_right_comm n 1]
    rfl

/-- A frame cut short by a timeout (R182, R183). -/
theorem collect_timeout {term : Byte} {l : Nat} {ws : List Byte} (hroom : ws.length < wireWindow l)
    (hterm : ∀ i, 1 ≤ i → ws[i]? ≠ some term) (rest : List RxDraw) :
    collect term (wireWindow l) 0 (arriving ws ++ .timeout :: rest) = (ws, rest, false) := by
  obtain ⟨k, hk⟩ := Nat.exists_eq_add_of_lt hroom
  rw [hk, Nat.add_assoc, collect_append_of_no_terminator _ _ _ fun i hi => hterm i (by omega)]
  simp only [collect, List.append_nil]

/-- The first `2l + 2` bytes of a reply of more than `l` logical bytes end no frame (R154). -/
theorem take_replyFrame_no_terminator (p : Params) (h : Byte) (d : List Byte) {l : Nat} (hl : l < d.length)
    (i : Nat) (hi : 1 ≤ i) : ((replyFrame p.val h d).take (2 * l + 2))[i]? ≠ some p.val.terminator := by
  intro hmem
  obtain ⟨j, rfl⟩ := Nat.exists_eq_add_of_le' hi
  rw [replyFrame, List.take_succ_cons, List.getElem?_cons_succ,
    List.take_append_of_le_length (by rw [flatMap_encPair_length]; omega)] at hmem
  exact terminator_not_mem_data p d (List.mem_of_mem_take (List.mem_of_getElem? hmem))

/-- The reply fills the window of `l` logical bytes (R182). -/
theorem take_replyFrame_length (c : Config) (h : Byte) (d : List Byte) {l : Nat} (hl : l < d.length) :
    ((replyFrame c h d).take (2 * l + 2)).length = 2 * l + 2 := by
  rw [List.length_take, replyFrame_length]
  omega

/-- A reply longer than the window fills it, and the rest stays on the link (R182, R310). -/
theorem collect_overlong (p : Params) (h : Byte) {d : List Byte} {l : Nat} (hl : l < d.length) (rest : List RxDraw) :
    collect p.val.terminator (wireWindow l) 0 (arriving (replyFrame p.val h d) ++ rest) =
      ((replyFrame p.val h d).take (2 * l + 2),
        arriving ((replyFrame p.val h d).drop (2 * l + 2)) ++ rest, true) := by
  have hlen := take_replyFrame_length p.val h d hl
  have hsplit : arriving (replyFrame p.val h d) ++ rest =
      arriving ((replyFrame p.val h d).take (2 * l + 2)) ++
        (arriving ((replyFrame p.val h d).drop (2 * l + 2)) ++ rest) := by
    rw [← List.append_assoc, arriving, arriving, arriving, ← List.map_append, List.take_append_drop]
  have hcol := collect_append_of_no_terminator (arriving ((replyFrame p.val h d).drop (2 * l + 2)) ++ rest) 0 _
    (n := 0) fun i hi => take_replyFrame_no_terminator p h d hl i (by omega)
  rw [hlen] at hcol
  rw [hsplit, wireWindow, ← Nat.add_zero (2 * l + 2), hcol]
  simp only [collect, List.append_nil]

/-- A wire sequence of even length without the terminator at its end does not decode (R155). -/
theorem decodeFrame_noTerminator {c : Config} {w : List Byte} (htwo : 2 ≤ w.length) (heven : w.length % 2 = 0)
    (hlast : w.getLast? ≠ some c.terminator) : decodeFrame c w = .error .noTerminator := by
  rw [decodeFrame, if_neg (by omega), if_neg (by omega), if_pos hlast]

/-- So the window's bytes do not decode (R155, R350). -/
theorem decodeFrame_overlong (p : Params) (h : Byte) {d : List Byte} {l : Nat} (hl : l < d.length) :
    decodeFrame p.val ((replyFrame p.val h d).take (2 * l + 2)) = .error .noTerminator := by
  have hlen := take_replyFrame_length p.val h d hl
  refine decodeFrame_noTerminator (by omega) (by omega) ?_
  rw [List.getLast?_eq_getElem?]
  exact take_replyFrame_no_terminator p h d hl _ (by omega)

/-- A full window's count fits `WLEN` (R27, R182). -/
theorem wlen_overlong (p : Params) (h : Byte) {d : List Byte} {l : Nat} (hcap : l ≤ rxCap) (hl : l < d.length) :
    (BitVec.ofNat 11 ((replyFrame p.val h d).take (2 * l + 2)).length).toNat = 2 * l + 2 := by
  rw [rxCap] at hcap
  rw [take_replyFrame_length p.val h d hl, BitVec.toNat_ofNat]
  exact Nat.mod_eq_of_lt (by omega)

/-! ### What the errors leave -/

section Collected
variable {s : State} {l : Nat} {mode : RxMode} {rest : List RxDraw}

/-- A frame that ended, its header known, leaves what a reply does (R155, R182). -/
theorem recordHeader_afterCollect {w : List Byte} {n : Nibble} (hne : w ≠ [])
    (hn : hdrDecode s.cfg.val (w.headD 0) = some n) (hrx : s.link.rx = arriving w ++ rest) :
    recordHeader w (afterCollect (w, rest, true) s) = afterReply w n rest s := by
  obtain ⟨w0, ws, rfl⟩ := List.exists_cons_of_ne_nil hne
  rw [List.headD_cons] at hn
  have hx : headerExtract s.cfg.val w0 = (true, n) := by rw [headerExtract, hn]
  have hcount : s.link.rx.length - rest.length = (w0 :: ws).length := by
    rw [hrx, List.length_append, arriving, List.length_map, Nat.add_sub_cancel]
  simp only [recordHeader, afterCollect, afterReply, hx, hcount]
  rfl

/-- A frame that ended and fails to decode, or that its mode refuses, raises that error (R155, R184). -/
theorem receive_raises {w : List Byte} {n : Nibble} {e : Cause}
    (hcol : collect s.cfg.val.terminator (wireWindow l) 0 s.link.rx = (w, rest, true)) (hne : w ≠ [])
    (hn : hdrDecode s.cfg.val (w.headD 0) = some n)
    (he : decodeFrame s.cfg.val w = .error e ∨
      ∃ hdr out, decodeFrame s.cfg.val w = .ok (hdr, out) ∧ modeCheck l mode out.length = some e)
    (next : List Byte → State → State) : receive l mode next s = raise e (afterReply w n rest s) := by
  obtain ⟨-, htaken, -⟩ := collect_spec s.cfg.val.terminator (wireWindow l) 0 s.link.rx
  rw [hcol] at htaken
  rw [← recordHeader_afterCollect hne hn (htaken rfl)]
  obtain he | ⟨hdr, out, hok, hmode⟩ := he
  case inl => simp only [receive, rxFrame, hcol, if_true, he]
  case inr => simp only [receive, rxFrame, hcol, if_true, hok, hmode]

/-- A reply that fits the window and fails the check of the mode (R184). -/
theorem receive_replyFrame_refused {h : Byte} {n : Nibble} {d : List Byte} {e : Cause}
    (hh : goodHeader s.cfg.val h n) (hl : d.length ≤ l) (hmode : modeCheck l mode d.length = some e)
    (hrx : s.link.rx = arriving (replyFrame s.cfg.val h d) ++ rest) (next : List Byte → State → State) :
    receive l mode next s = raise e (afterReply (replyFrame s.cfg.val h d) n rest s) :=
  receive_raises (hrx ▸ collect_replyFrame s.cfg h hl rest) (List.cons_ne_nil _ _) hh.1
    (.inr ⟨n, d, decodeFrame_replyFrame s.cfg hh d, hmode⟩) next

/-- A reply longer than the window, in any mode (R182, R350). -/
theorem receive_overlong {h : Byte} {n : Nibble} {d : List Byte} (hh : goodHeader s.cfg.val h n) (hl : l < d.length)
    (hrx : s.link.rx = arriving (replyFrame s.cfg.val h d) ++ rest) (next : List Byte → State → State) :
    receive l mode next s =
      raise .noTerminator (afterReply ((replyFrame s.cfg.val h d).take (2 * l + 2)) n
        (arriving ((replyFrame s.cfg.val h d).drop (2 * l + 2)) ++ rest) s) :=
  receive_raises (hrx ▸ collect_overlong s.cfg h hl rest) (List.cons_ne_nil _ _) hh.1
    (.inl (decodeFrame_overlong s.cfg h hl)) next

/-- A timeout before the frame ends keeps the bytes taken so far and records no header (R182, R183). -/
theorem receive_timeout {ws : List Byte} (hroom : ws.length < wireWindow l)
    (hterm : ∀ i, 1 ≤ i → ws[i]? ≠ some s.cfg.val.terminator)
    (hrx : s.link.rx = arriving ws ++ .timeout :: rest) (next : List Byte → State → State) :
    receive l mode next s =
      raise .rxTimeout { s with
        mem := s.mem.writeAll wireBase ws
        wlen := BitVec.ofNat 11 ws.length
        rxCount := ws.length
        timerFired := true
        link := { s.link with rx := rest, arrived := s.link.arrived - (ws.length + 1) } } := by
  have hcol : collect s.cfg.val.terminator (wireWindow l) 0 s.link.rx = (ws, rest, false) :=
    hrx ▸ collect_timeout hroom hterm rest
  have hcount : s.link.rx.length - rest.length = ws.length + 1 := by
    rw [hrx, List.length_append, arriving, List.length_map, List.length_cons]
    omega
  simp only [receive, rxFrame, hcol, Bool.false_eq_true, if_false, afterCollect, hcount, Bool.not_false]

end Collected

end Sys2Proof.Machine
end

section
/-! RECV (43_transport.md R187, R188): the argument check, then one receive of the length and mode of `LEN`. -/
namespace Sys2Proof.Machine

open Sys2Proof

/-- `RecvLength` of a `LEN` that is not negative (R188). -/
theorem recvLength_of_nonneg {s : State} (h : s.len.msb = false) : recvLength s = (s.len.toNat, .exact) := by
  rw [recvLength, h, if_neg Bool.false_ne_true]

/-- And of a negative one (R188). -/
theorem recvLength_of_neg {s : State} (h : s.len.msb = true) :
    recvLength s = (s.cfg.val.recvDefaultLen.toNat, .upTo) := by
  rw [recvLength, h, if_pos rfl]

/-- CHECK_ARGS lets RECV past with a length that fits `RXBUF`, or a negative one (R112, R188). -/
theorem checkArgs_recv {s : State} (hop : s.opl = 4) (hlen : s.len.msb = true ∨ s.len.toNat ≤ rxCap) :
    checkArgs s = goto .recvRx s := by
  have hcheck : checkArgs s = checkLen (s.len.msb || s.len.toNat ≤ rxCap) .recvRx s := by
    rw [checkArgs, hop]; rfl
  rw [hcheck, checkLen, if_pos]
  rwa [Bool.or_eq_true, decide_eq_true_iff]

/-- The state in which an accepted RECV receives (R110, R112). -/
def recvStart (sp : BitVec 1) (fc : Nibble) (s : State) : State := goto .recvRx (accept 4 sp fc s)

/-- RECV in range is the action of RECV_RX (R187). -/
theorem exec_recv {s : State} (hr : s.resetIn = false) (hf : s.fsm = .idle)
    (hlen : s.len.msb = true ∨ s.len.toNat ≤ rxCap) (sp : BitVec 1) (fc : Nibble) :
    exec (.recv sp fc) s = .next (recvRx (recvStart sp fc s)) := by
  have hcheck : checkArgs (accept 4 sp fc s) = goto .recvRx (accept 4 sp fc s) := checkArgs_recv rfl hlen
  rw [exec, execRecv, command_of_checkArgs_goto hr hf hcheck, recvStart]

@[simp] theorem recvLength_recvStart (sp : BitVec 1) (fc : Nibble) (s : State) :
    recvLength (recvStart sp fc s) = recvLength s := rfl

/-- Either kind of `LEN`, with whatever is said of the reply, is in RECV's range (R112, R188). -/
theorem recv_inRange {s : State} {P Q : Prop}
    (h : (s.len.msb = false ∧ s.len.toNat ≤ 512 ∧ P) ∨ (s.len.msb = true ∧ Q)) :
    s.len.msb = true ∨ s.len.toNat ≤ rxCap := by
  obtain ⟨-, hle, -⟩ | ⟨hneg, -⟩ := h
  · exact .inr hle
  · exact .inl hneg

/-- Settles O14: either way the reply fits the length asked for and passes its mode's check. -/
theorem recvRequestResult : Obligations.RecvRequestResult := by
  intro s sp fc h n d rest hr hf hlen hh hrx
  have hfits : d.length ≤ (recvLength s).1 ∧ modeCheck (recvLength s).1 (recvLength s).2 d.length = none := by
    obtain ⟨hpos, -, heq⟩ | ⟨hneg, hle⟩ := hlen
    · rw [recvLength_of_nonneg hpos]
      exact ⟨heq.le, modeCheck_exact_eq_none_iff.mpr heq⟩
    · rw [recvLength_of_neg hneg]
      exact ⟨hle, rfl⟩
  obtain ⟨hle, hmode⟩ := hfits
  rw [exec_recv hr hf (recv_inRange hlen), recvRx, recvLength_recvStart,
    receive_replyFrame (s := recvStart sp fc s) hh hle hmode hrx, afterReply, replyFrame_length]
  rfl

/-- Settles O15: a short reply is decoded and refused by EXACT; a long one fills the window. -/
theorem recvWrongLengthReply : Obligations.RecvWrongLengthReply := by
  intro s sp fc h n d rest hr hf hh hrx
  refine ⟨fun hpos hle hlt => ?short, fun l hlen hlt => ?long⟩
  case short =>
    have hmode : modeCheck s.len.toNat .exact d.length = some .truncated := if_neg hlt.ne
    rw [exec_recv hr hf (.inr hle), recvRx, recvLength_recvStart, recvLength_of_nonneg hpos,
      receive_replyFrame_refused (s := recvStart sp fc s) hh hlt.le hmode hrx,
      raise_of_linkOp (by decide) rfl (by simp [afterReply, recvStart]), afterReply, replyFrame_length]
    rfl
  case long =>
    have hl : (recvLength s).1 = l := by
      obtain ⟨hpos, -, rfl⟩ | ⟨hneg, rfl⟩ := hlen
      · rw [recvLength_of_nonneg hpos]
      · rw [recvLength_of_neg hneg]
    rw [exec_recv hr hf (recv_inRange hlen), recvRx, recvLength_recvStart, hl,
      receive_overlong (s := recvStart sp fc s) hh hlt hrx,
      raise_of_linkOp (by decide) rfl (by simp [afterReply, recvStart]), afterReply,
      take_replyFrame_length _ _ _ hlt]
    rfl

/-- Settles O16: the window is that of the length asked for. -/
theorem recvTimeoutFaults : Obligations.RecvTimeoutFaults := by
  intro s sp fc ws rest hr hf hrange hroom hterm hrx
  have hwindow : ws.length < wireWindow (recvLength s).1 := by
    rwa [recvLength, wireWindow, apply_ite Prod.fst, apply_ite (2 * · + 2)]
  rw [exec_recv hr hf hrange, recvRx, recvLength_recvStart,
    receive_timeout (s := recvStart sp fc s) hwindow hterm hrx,
    raise_of_linkOp (by decide) rfl (by simp [recvStart])]
  rfl

end Sys2Proof.Machine
end

section
/-! READ_REG whose setup reply is not empty (44_register_client.md R212, R216): the request ends in RR_SETUP_RX. -/
namespace Sys2Proof.Machine

open Sys2Proof

/-- CHECK_ARGS lets READ_REG past with a length that fits its length byte (R82, R112). -/
theorem checkArgs_readReg {s : State} (hop : s.opl = 5) (hlen : s.len.toNat ≤ 255) :
    checkArgs s = goto .rrSetupTx s := by
  have hcheck : checkArgs s = checkLen (s.len.toNat ≤ 255) .rrSetupTx s := by rw [checkArgs, hop]; rfl
  rw [hcheck, checkLen, if_pos (decide_eq_true hlen)]

/-- An error leaves the FSM in no state of a request (R303, R304). -/
theorem raise_fsm_ne {x : FsmState} (hi : x ≠ .idle) (hx : x ≠ .faulted) (e : Cause) (s : State) :
    (raise e s).fsm ≠ x := by
  rw [raise_fsm]
  split
  · exact hx.symm
  · exact hi.symm

/-- The state in which an accepted READ_REG, its setup message out, waits for the acknowledge (R211). -/
def setupSent (sp : BitVec 1) (fc : Nibble) (s : State) : State :=
  rrSetupTx (goto .rrSetupTx (accept 5 sp fc s))

/-- That state, where the transmit succeeded. -/
theorem setupSent_of_txSucceeds {s : State} (htx : txSucceeds 1 s) (sp : BitVec 1) (fc : Nibble) :
    setupSent sp fc s =
      { accept 5 sp fc s with
        fsm := .rrSetupRx
        txf := encodeFrame s.cfg.val s.cfg.val.txCmd (rrsBytes s.cfg.val (lenByte s) s.reg)
        link := { s.link with
          tx := s.link.tx.drop 1
          out := s.link.out ++ encodeFrame s.cfg.val s.cfg.val.txCmd (rrsBytes s.cfg.val (lenByte s) s.reg) } } :=
  transmit_advance_of_txSucceeds (s := goto .rrSetupTx (accept 5 sp fc s)) htx rfl _ _

/-- READ_REG whose setup acknowledge raises an error ends there (R216). -/
theorem exec_readReg_of_receiveSack_raises {s : State} (hr : s.resetIn = false) (hf : s.fsm = .idle)
    (hlen : s.len.toNat ≤ 255) {sp : BitVec 1} {fc : Nibble} (hsent : (setupSent sp fc s).fsm = .rrSetupRx)
    {e : Cause} {u : State} (hsack : receiveSack (setupSent sp fc s) = raise e u) :
    exec (.readReg sp fc) s = .next (raise e u) := by
  have hcheck : checkArgs (accept 5 sp fc s) = goto .rrSetupTx (accept 5 sp fc s) := checkArgs_readReg rfl hlen
  rw [exec, execReadReg, command_of_idle hr hf, phase_of_eq (accept_fsm 5 sp fc s), hcheck,
    phase_of_eq (goto_fsm .rrSetupTx _), ← setupSent, phase_of_eq hsent, rrSetupRx, hsack,
    phase_of_ne (raise_fsm_ne (by decide) (by decide) e u), phase_of_ne (raise_fsm_ne (by decide) (by decide) e u)]

/-- A setup reply that is not empty raises SETUP_REPLY_NONEMPTY where it fits the window, and NO_TERMINATOR where it
does not (R212, R182). -/
theorem receiveSack_nonempty {s : State} {h : Byte} {n : Nibble} {d : List Byte} {rest : List RxDraw}
    (hd : 1 ≤ d.length) (hh : goodHeader s.cfg.val h n)
    (hrx : s.link.rx = arriving (replyFrame s.cfg.val h d) ++ rest) :
    (d.length ≤ s.cfg.val.setupAckLen ∧
      receiveSack s = raise .setupReplyNonempty (afterReply (replyFrame s.cfg.val h d) n rest s)) ∨
    (s.cfg.val.setupAckLen < d.length ∧
      receiveSack s = raise .noTerminator
        (afterReply ((replyFrame s.cfg.val h d).take (2 * s.cfg.val.setupAckLen + 2)) n
          (arriving ((replyFrame s.cfg.val h d).drop (2 * s.cfg.val.setupAckLen + 2)) ++ rest) s)) := by
  obtain hle | hlt := le_or_gt d.length s.cfg.val.setupAckLen
  case inl =>
    have hmode : modeCheck s.cfg.val.setupAckLen .empty d.length = some .setupReplyNonempty :=
      if_neg (Nat.ne_of_gt hd)
    exact .inl ⟨hle, receive_replyFrame_refused hh hle hmode hrx _⟩
  case inr => exact .inr ⟨hlt, receive_overlong hh hlt hrx _⟩

/-- Settles O20: the request ends in the error of its setup acknowledge, with one frame out. -/
theorem readRegSetupNotEmpty : Obligations.ReadRegSetupNotEmpty := by
  intro s sp fc h n d rest hr hf hlen htx hd hh hrx
  have hsent := setupSent_of_txSucceeds htx sp fc
  have hcfg : (setupSent sp fc s).cfg = s.cfg := by rw [hsent]; rfl
  have hlink : (setupSent sp fc s).link.rx = s.link.rx := by rw [hsent]
  have hfsm : (setupSent sp fc s).fsm = .rrSetupRx := by rw [hsent]
  have hbyte : BitVec.ofNat 8 s.len.toNat = lenByte s := BitVec.ofNat_toNat _ _
  rw [← hcfg] at hh
  rw [← hlink, ← hcfg] at hrx
  rw [hbyte]
  obtain ⟨hle, hsack⟩ | ⟨hlt, hsack⟩ := receiveSack_nonempty hd hh hrx
  all_goals
    refine ⟨_, exec_readReg_of_receiveSack_raises hr hf hlen hfsm hsack, ?_⟩
    rw [hsent, raise_of_linkOp (by decide) rfl (by simp [afterReply])]
    refine ⟨rfl, rfl, rfl, rfl, rfl, rfl, rfl, rfl, rfl, rfl, rfl, rfl, ?_, ?_⟩
  · exact fun _ => ⟨rfl, rfl, rfl⟩
  · exact fun hlong => absurd hle (hcfg ▸ hlong.not_ge)
  · exact fun hshort => absurd hlt (hcfg ▸ hshort.not_gt)
  · exact fun hlong => ⟨rfl, rfl, wlen_overlong s.cfg h (setupAckLen_le s.cfg) hlong, rfl⟩

end Sys2Proof.Machine
end

section
/-! READ_REG and WRITE_REG whose partner answers as asked (44_register_client.md R210 to R220): what each state of the
transaction leaves, and the request as those states in order. -/
namespace Sys2Proof.Machine

open Sys2Proof

/-- The action of a state that carries a row leaves what the row does (R111). -/
theorem fsmStep_of_exec_carried {s t : State} {i : Instr} (hi : carried s = some i) (h : exec i s = .next t) :
    fsmStep s = t := by
  rw [← fsmTurn_of_carried hi, fsmTurn_eq_fsmStep] at h
  exact Host.Outcome.next.inj h

/-! ### READ_REG -/

/-- The length byte of the messages is `LEN`, in READ_REG's range (R82, R112). -/
theorem lenByte_toNat {s : State} (h : s.len.toNat ≤ 255) : (lenByte s).toNat = s.len.toNat := by
  rw [lenByte, BitVec.toNat_setWidth]
  exact Nat.mod_eq_of_lt (Nat.lt_succ_of_le h)

/-- RR_SETUP_RX with an empty reply on the link goes on to the trigger (R212). -/
theorem rrSetupRx_of_reply {s : State} (hs : s.fsm = .rrSetupRx) {h : Byte} {n : Nibble} {rest : List RxDraw}
    (hh : goodHeader s.cfg.val h n) (hrx : s.link.rx = arriving (replyFrame s.cfg.val h []) ++ rest) :
    rrSetupRx s = goto .rrTrigTx (afterReply (replyFrame s.cfg.val h []) n rest s) := by
  rw [rrSetupRx, receiveSack, receive_replyFrame hh (Nat.zero_le _) rfl hrx]
  exact congrArg (fun x => goto (followState x) _) hs

/-- RR_TRIG_TX whose transmit succeeds goes on to the trigger reply (R213). -/
theorem rrTrigTx_of_txSucceeds {s : State} (hs : s.fsm = .rrTrigTx) (htx : txSucceeds 1 s) :
    rrTrigTx s =
      { s with
        fsm := .rrTrigRx
        txf := encodeFrame s.cfg.val s.cfg.val.txCmd (rrtBytes s.cfg.val (lenByte s))
        link := { s.link with
          tx := s.link.tx.drop 1
          out := s.link.out ++ encodeFrame s.cfg.val s.cfg.val.txCmd (rrtBytes s.cfg.val (lenByte s)) } } :=
  transmit_advance_of_txSucceeds htx (congrArg followState hs) _ _

/-- RR_TRIG_RX with the payload and the status byte on the link completes the request, as M-TREP's row does (R214). -/
theorem rrTrigRx_of_reply {s : State} (hs : s.fsm = .rrTrigRx) {h : Byte} {n : Nibble} {payload : List Byte}
    {st : Byte} {rest : List RxDraw} (hh : goodHeader s.cfg.val h n) (hlen : payload.length = (lenByte s).toNat)
    (hrx : s.link.rx = arriving (replyFrame s.cfg.val h (payload ++ [st])) ++ rest) :
    rrTrigRx s =
      { s with
        fsm := .idle
        done := true
        mem := (s.mem.writeAll 0x800 (replyFrame s.cfg.val h (payload ++ [st]))).writeAll 0x600 (payload ++ [st])
        wlen := BitVec.ofNat 11 (2 * (lenByte s).toNat + 4)
        rxCount := 2 * (lenByte s).toNat + 4
        timerFired := false
        rxhdrV := true
        rxhdr := n
        rlen := BitVec.ofNat 11 (lenByte s).toNat
        statbyte := st
        link := { s.link with
          rx := rest
          arrived := s.link.arrived - (2 * (lenByte s).toNat + 4) } } := by
  have haction : fsmStep s = rrTrigRx s := by rw [fsmStep, hs]
  have hrow := triggerReplyReceived s (lenByte s) h n payload st rest (.inl hs) hh hlen hrx
  rw [← haction, fsmStep_of_exec_carried (by rw [carried, hs]) hrow]
  simp only [hs, if_true, beq_self_eq_true, Bool.or_true]

/-- READ_REG in range is its argument check and its four states, where none of them raises an error (R210). -/
theorem exec_readReg_of_states {s : State} (hr : s.resetIn = false) (hf : s.fsm = .idle) (hlen : s.len.toNat ≤ 255)
    {sp : BitVec 1} {fc : Nibble} {sent acked triggered final : State}
    (hsent : setupSent sp fc s = sent) (hatSetupRx : sent.fsm = .rrSetupRx)
    (hacked : rrSetupRx sent = acked) (hatTrigTx : acked.fsm = .rrTrigTx)
    (htriggered : rrTrigTx acked = triggered) (hatTrigRx : triggered.fsm = .rrTrigRx)
    (hfinal : rrTrigRx triggered = final) : exec (.readReg sp fc) s = .next final := by
  have hcheck : checkArgs (accept 5 sp fc s) = goto .rrSetupTx (accept 5 sp fc s) := checkArgs_readReg rfl hlen
  rw [exec, execReadReg, command_of_idle hr hf, phase_of_eq (accept_fsm 5 sp fc s), hcheck,
    phase_of_eq (goto_fsm .rrSetupTx _), ← setupSent, hsent, phase_of_eq hatSetupRx, hacked, phase_of_eq hatTrigTx,
    htriggered, phase_of_eq hatTrigRx, hfinal]

/-- Of two transmits that succeed, the first does, and with its answer taken the second (R180). -/
theorem txSucceeds_one_then_one {s : State} (h : txSucceeds 2 s) :
    txSucceeds 1 s ∧ ∀ d ∈ (s.link.tx.drop 1).take 1, d = .ok := by
  refine ⟨fun d hd => h d (List.take_subset_take_left _ (by decide) hd), fun d hd => ?_⟩
  rw [List.take_drop] at hd
  exact h d (List.mem_of_mem_drop hd)

/-- Settles O19: each state's action starts from what the one before it left; the statement's counts are first put as
the states count, reply by reply. -/
theorem readRegRequestResult : Obligations.ReadRegRequestResult := by
  intro s sp fc h1 h2 n1 n2 payload st rest hr hf hlen hpay htx hh1 hh2 hrx
  obtain ⟨hsetup, htrigger⟩ := txSucceeds_one_then_one htx
  have hbyte : BitVec.ofNat 8 s.len.toNat = lenByte s := BitVec.ofNat_toNat _ _
  have hcount := lenByte_toNat hlen
  have hwire : 2 * (s.len.toNat + 1) + 2 = 2 * (lenByte s).toNat + 4 := by omega
  have hdrop : s.link.tx.drop 2 = (s.link.tx.drop 1).drop 1 := by rw [List.drop_drop]
  rw [arriving, List.map_append, List.append_assoc] at hrx
  rw [hbyte, hwire, hdrop, ← Nat.sub_sub, ← hcount]
  refine exec_readReg_of_states hr hf hlen (setupSent_of_txSucceeds hsetup sp fc) rfl
    (rrSetupRx_of_reply rfl hh1 hrx) rfl (rrTrigTx_of_txSucceeds rfl htrigger) rfl ?_
  exact rrTrigRx_of_reply rfl hh2 (hpay.trans hcount.symm) rfl

/-! ### WRITE_REG -/

/-- CHECK_ARGS lets WRITE_REG past with a length whose length byte M-WR can carry (R84, R112). -/
theorem checkArgs_writeReg {s : State} (hop : s.opl = 6) (hlen : s.len.toNat ≤ 254) :
    checkArgs s = goto .wrTx s := by
  have hcheck : checkArgs s = checkLen (s.len.toNat ≤ 254) .wrTx s := by rw [checkArgs, hop]; rfl
  rw [hcheck, checkLen, if_pos (decide_eq_true hlen)]

/-- WR_TX whose transmit succeeds goes on to the acknowledge, the tracking of a page register cleared (R218, R220). -/
theorem wrTx_of_txSucceeds {s : State} (hs : s.fsm = .wrTx) (htx : txSucceeds 1 s) :
    wrTx s =
      { clearForWrite s.reg s with
        fsm := .wrRx
        txf := encodeFrame s.cfg.val s.cfg.val.txCmd (wrBytes s.cfg.val s.reg (txPayload s))
        link := { s.link with
          tx := s.link.tx.drop 1
          out := s.link.out
            ++ encodeFrame s.cfg.val s.cfg.val.txCmd (wrBytes s.cfg.val s.reg (txPayload s)) } } :=
  transmit_advance_of_txSucceeds (s := clearForWrite s.reg s) htx (congrArg followState hs) _ _

/-- WR_RX with an acknowledge on the link completes the request, as M-WACK's row does (R219). -/
theorem wrRx_of_reply {s : State} (hs : s.fsm = .wrRx) {h : Byte} {n : Nibble} {a : Byte} {more : List Byte}
    {rest : List RxDraw} (hh : goodHeader s.cfg.val h n) (hlen : more.length + 1 = s.cfg.val.wrAckLen)
    (hrx : s.link.rx = arriving (replyFrame s.cfg.val h (a :: more)) ++ rest) :
    wrRx s =
      { s with
        fsm := .idle
        done := true
        mem := (s.mem.writeAll 0x800 (replyFrame s.cfg.val h (a :: more))).writeAll 0x600 [a]
        wlen := BitVec.ofNat 11 (2 * s.cfg.val.wrAckLen + 2)
        rxCount := 2 * s.cfg.val.wrAckLen + 2
        timerFired := false
        rxhdrV := true
        rxhdr := n
        rlen := 1
        ack := a
        link := { s.link with rx := rest, arrived := s.link.arrived - (2 * s.cfg.val.wrAckLen + 2) } } := by
  have haction : fsmStep s = wrRx s := by rw [fsmStep, hs]
  have hrow := (writeAcknowledgeReceived s h n a more rest hh hlen hrx).1 hs
  rw [← haction, fsmStep_of_exec_carried (by rw [carried, hs]) hrow]

/-- WRITE_REG in range is its argument check and its two states, where neither raises an error (R217). -/
theorem exec_writeReg_of_states {s : State} (hr : s.resetIn = false) (hf : s.fsm = .idle)
    (hlen : s.len.toNat ≤ 254) {sp : BitVec 1} {fc : Nibble} {sent final : State}
    (hsent : wrTx (goto .wrTx (accept 6 sp fc s)) = sent) (hatWrRx : sent.fsm = .wrRx)
    (hfinal : wrRx sent = final) : exec (.writeReg sp fc) s = .next final := by
  have hcheck : checkArgs (accept 6 sp fc s) = goto .wrTx (accept 6 sp fc s) := checkArgs_writeReg rfl hlen
  rw [exec, execWriteReg, command_of_idle hr hf, phase_of_eq (accept_fsm 6 sp fc s), hcheck,
    phase_of_eq (goto_fsm .wrTx _), hsent, phase_of_eq hatWrRx, hfinal]

/-- Settles O21: the tracking is cleared and M-WR leaves in WR_TX, and WR_RX takes the acknowledge. -/
theorem writeRegRequestResult : Obligations.WriteRegRequestResult := by
  intro s sp fc h n a more rest hr hf hlen htx hack hh hrx
  exact exec_writeReg_of_states hr hf hlen (wrTx_of_txSucceeds rfl htx) rfl (wrRx_of_reply rfl hh hack hrx)

end Sys2Proof.Machine
end

section
/-! The tracked pages decide nothing (45_page_select.md R248): every action of the machine answers alike on two states
that differ in the tracking, and in the word the host last read, alone. -/
namespace Sys2Proof.Machine

open Sys2Proof

/-! ### States without the tracking -/

/-- A state with the tracked pages and the word the host last read forgotten. -/
def untracked (s : State) : State :=
  { s with mainValid := false, mainPage := 0, subValid := false, subPage := 0, rdata := 0 }

/-- Two states differ in what is forgotten alone when they agree on the rest. -/
theorem sameButTracking_iff {s t : State} : sameButTracking s t ↔ untracked s = untracked t := by
  unfold sameButTracking
  constructor
  case mp =>
    intro h
    have hforget := congrArg untracked h
    exact hforget
  case mpr =>
    exact fun h => congrArg (fun u => { u with
      mainValid := t.mainValid
      mainPage := t.mainPage
      subValid := t.subValid
      subPage := t.subPage
      rdata := t.rdata }) h

/-- A function of states whose answer, but for what is forgotten, does not depend on what is forgotten. -/
def TrackingBlind (f : State → State) : Prop := ∀ s, untracked (f (untracked s)) = untracked (f s)

namespace TrackingBlind

variable {f g : State → State}

theorem id : TrackingBlind fun s => s := fun _ => rfl

/-- Such a function answers alike on states that differ in what is forgotten alone. -/
theorem congr (hf : TrackingBlind f) {s t : State} (h : untracked s = untracked t) :
    untracked (f s) = untracked (f t) := by
  rw [← hf s, h, hf t]

theorem comp (hf : TrackingBlind f) (hg : TrackingBlind g) : TrackingBlind fun s => f (g s) :=
  fun s => hf.congr (hg s)

/-- A case split on something that is not forgotten. -/
theorem ite {p : State → Prop} [DecidablePred p] (hp : ∀ s, p (untracked s) ↔ p s) (hf : TrackingBlind f)
    (hg : TrackingBlind g) : TrackingBlind fun s => if p s then f s else g s := by
  intro s
  simp only [hp]
  split
  · exact hf s
  · exact hg s

/-- Error entry clears the tracking at most, and reads none of it (R302). -/
theorem raise (e : Cause) : TrackingBlind (raise e) := fun _ => rfl

/-! ### Transmitting and receiving -/

theorem txFrame_untracked (ws : List Byte) (s : State) :
    txFrame ws (untracked s) = ((txFrame ws s).1, untracked (txFrame ws s).2) := by
  have hlink : (untracked s).link = s.link := rfl
  simp only [txFrame, hlink]
  split <;> rfl

theorem transmit {next : State → State} (hnext : TrackingBlind next) (fcmd : Nibble) (d : List Byte) :
    TrackingBlind (transmit fcmd d next) := by
  intro s
  have hcfg : (untracked s).cfg = s.cfg := rfl
  simp only [Machine.transmit, txFrame_untracked, hcfg]
  rcases txFrame (encodeFrame s.cfg.val fcmd d) s with ⟨_ | _, t⟩
  · exact raise .txFail t
  · exact hnext t

theorem rxFrame_untracked (l : Nat) (mode : RxMode) (s : State) :
    rxFrame l mode (untracked s) = ((rxFrame l mode s).1, untracked (rxFrame l mode s).2) := by
  have hlink : (untracked s).link = s.link := rfl
  have hcfg : (untracked s).cfg = s.cfg := rfl
  simp only [rxFrame, hlink, hcfg]
  split
  case isFalse => rfl
  case isTrue =>
    split
    · rfl
    · split <;> rfl

theorem receive {next : List Byte → State → State} (hnext : ∀ out, TrackingBlind (next out)) (l : Nat)
    (mode : RxMode) : TrackingBlind (receive l mode next) := by
  intro s
  simp only [Machine.receive, rxFrame_untracked]
  rcases rxFrame l mode s with ⟨e | out, t⟩
  · exact raise e t
  · exact hnext out t

theorem transmit_advance (fcmd : Nibble) (d : List Byte) : TrackingBlind (Machine.transmit fcmd d advance) :=
  transmit (next := advance) (fun _ => rfl) fcmd d

theorem sendFrame (fcmd : Nibble) (d : List Byte) : TrackingBlind (sendFrame fcmd d) :=
  transmit (next := fun t => complete (clearTracking t)) (fun _ => rfl) fcmd d

theorem receiveSack : TrackingBlind receiveSack :=
  fun s => receive (next := fun _ => advance) (fun _ _ => rfl) s.cfg.val.setupAckLen .empty s

theorem receiveTrep (len : Byte) : TrackingBlind (receiveTrep len) := by
  refine receive (fun out => ?_) _ _
  exact ite (p := (·.fsm = .rrTrigRx)) (fun _ => Iff.rfl) (fun _ => rfl) fun _ => rfl

theorem receiveWack : TrackingBlind receiveWack := by
  refine fun s => receive (fun out => ?_) s.cfg.val.wrAckLen .exact s
  exact ite (p := (·.fsm = .wrRx)) (fun _ => Iff.rfl) (fun _ => rfl) fun _ => rfl

theorem recvRx : TrackingBlind recvRx := by
  refine fun s => receive ?_ (recvLength s).1 (recvLength s).2 s
  exact fun _ _ => rfl

/-! ### The states that branch -/

theorem decRun : TrackingBlind decRun := by
  intro s
  have hcfg : (untracked s).cfg = s.cfg := rfl
  have hwire : wirePayload (untracked s) = wirePayload s := rfl
  simp only [Machine.decRun, hcfg, hwire]
  split <;> rfl

theorem checkLen (b : Bool) (x : FsmState) : TrackingBlind (checkLen b x) := by
  cases b
  · exact raise .lenRange
  · exact fun _ => rfl

theorem checkArgs : TrackingBlind checkArgs := by
  intro s
  have hopl : (untracked s).opl = s.opl := rfl
  rw [Machine.checkArgs, Machine.checkArgs, hopl]
  split
  case h_7 | h_8 => rfl
  all_goals exact checkLen _ _ s

/-- The comparison is with the page asked for, not with a tracked one (R243). -/
theorem psCheck : TrackingBlind psCheck :=
  ite (p := fun s => byteAt s rxBase = s.page) (fun _ => Iff.rfl) (fun _ => rfl)
    (ite (p := fun s => s.attempt.toNat < budget s.cfg.val s.spacel) (fun _ => Iff.rfl) (fun _ => rfl)
      (raise .budgetExhausted))

/-- One FSM step, state by state (R111). -/
theorem fsmStep : TrackingBlind fsmStep := by
  intro s
  have hfsm : (untracked s).fsm = s.fsm := rfl
  cases hs : s.fsm <;> simp only [Machine.fsmStep, hfsm, hs]
  case idle | faulted | encRun => rfl
  case decRun => exact decRun s
  case checkArgs => exact checkArgs s
  case psCheck => exact psCheck s
  case sendTx => exact sendFrame s.fcmdl (txPayload s) s
  case recvRx => exact recvRx s
  case rrSetupTx | rrTrigTx | psRdSetupTx | psRdTrigTx => exact transmit_advance _ _ s
  case wrTx => exact (transmit_advance _ _).congr (s := clearForWrite s.reg (untracked s)) rfl
  case psWrTx => exact (transmit_advance _ _).congr (s := clearSpace s.spacel (untracked s)) rfl
  case rrSetupRx | psRdSetupRx => exact receiveSack s
  case rrTrigRx | psRdTrigRx => exact receiveTrep _ s
  case wrRx | psWrRx => exact receiveWack s

theorem fsmSteps (n : Nat) : TrackingBlind (fsmSteps n) := by
  induction n with
  | zero => exact id
  | succ n ih => exact ih.comp fsmStep

/-! ### The turns -/

theorem command {run : State → State} (hrun : TrackingBlind run) (op : BitVec 4) (sp : BitVec 1) (fc : Nibble) :
    TrackingBlind (command op sp fc run) :=
  ite (p := (·.resetIn = true)) (fun _ => Iff.rfl) id
    (ite (p := (·.fsm = .idle)) (fun _ => Iff.rfl) (hrun.comp (g := accept op sp fc) fun _ => rfl) fun _ => rfl)

/-- A read answers from the tracked pages at most the word it returns (R43, R248). -/
theorem hostRead (a : Nat) : TrackingBlind (hostRead a) :=
  ite (p := (readIsOpen a · = true)) (fun _ => Iff.rfl) (fun _ => rfl) fun _ => rfl

theorem storeOperand (a : Nat) (v : Word) : TrackingBlind (storeOperand a v) := by
  intro s
  unfold Machine.storeOperand
  repeat' split
  all_goals rfl

theorem hostWrite (a : Nat) (v : Word) : TrackingBlind (hostWrite a v) :=
  ite (p := (·.resetIn = true)) (fun _ => Iff.rfl) id
    (ite (p := fun _ => a = 0x000) (fun _ => Iff.rfl) (command id _ _ _)
      (ite (p := fun _ => isOperandOffset a = true) (fun _ => Iff.rfl)
        (ite (p := (busy · = true)) (fun _ => Iff.rfl) (fun _ => rfl) (storeOperand a v)) id))

theorem partnerStep (act : PartnerAct) : TrackingBlind (partnerStep act) := by
  cases act <;> exact fun _ => rfl

theorem assertReset (sent : Nat) : TrackingBlind (assertReset sent) := fun _ => rfl

theorem releaseReset : TrackingBlind releaseReset :=
  ite (p := (·.resetIn = true)) (fun _ => Iff.rfl) (fun _ => rfl) id

end TrackingBlind

/-- An outcome with what is forgotten forgotten of its next state. -/
def untrackedOutcome : Host.Outcome State Fault Refusal → Host.Outcome State Fault Refusal
  | .next s => .next (untracked s)
  | .fault r => .fault r
  | .refused r => .refused r

theorem TrackingBlind.next {f : State → State} (hf : TrackingBlind f) (s : State) :
    untrackedOutcome (.next (f (untracked s))) = untrackedOutcome (.next (f s)) :=
  congrArg Host.Outcome.next (hf s)

/-- A host command is a `CMD` write whose acceptance runs a number of FSM steps that does not depend on the state. -/
theorem exec_eq_command_fsmSteps {i : Instr} {op : BitVec 4} {sp : BitVec 1} {fc : Nibble}
    (hi : commandOf i = some (op, sp, fc)) : ∃ n, ∀ s, exec i s = .next (command op sp fc (fsmSteps n) s) := by
  obtain ⟨n, -, run, hrun, hexec⟩ := exec_eq_command_runsSteps hi
  refine ⟨n, fun s => ?_⟩
  obtain ⟨heq, -⟩ := hrun (accept op sp fc s) ⟨rfl, rfl⟩
  rw [hexec, command, heq, command]

theorem fsmTurn_untracked (s : State) : untrackedOutcome (fsmTurn (untracked s)) = untrackedOutcome (fsmTurn s) := by
  rw [fsmTurn_eq_fsmStep, fsmTurn_eq_fsmStep]
  exact TrackingBlind.fsmStep.next s

theorem hostAccess_untracked (access : HostAccess) (s : State) :
    untrackedOutcome (hostAccess access (untracked s)) = untrackedOutcome (hostAccess access s) := by
  unfold hostAccess
  repeat' split
  case h_1.isFalse.isFalse.isFalse => exact (TrackingBlind.hostRead _).next s
  case h_2.isFalse.isFalse.isFalse => exact (TrackingBlind.hostWrite _ _).next s
  all_goals rfl

/-- Every kind of turn (R6, R311). -/
theorem takeTurn_untracked (t : Turn) (s : State) :
    untrackedOutcome (takeTurn t (untracked s)) = untrackedOutcome (takeTurn t s) := by
  cases t with
  | request w =>
    obtain ⟨op, sp, fc, hi⟩ := decodeCommand_isCommand w
    obtain ⟨n, hexec⟩ := exec_eq_command_fsmSteps hi
    rw [takeTurn, takeTurn, hexec, hexec]
    exact ((TrackingBlind.fsmSteps n).command op sp fc).next s
  | host access => exact hostAccess_untracked access s
  | fsm => exact fsmTurn_untracked s
  | partner act => exact (TrackingBlind.partnerStep act).next s
  | assertReset sent => exact (TrackingBlind.assertReset sent).next s
  | releaseReset => exact TrackingBlind.releaseReset.next s

theorem step_untracked (s : State) : untrackedOutcome (step (untracked s)) = untrackedOutcome (step s) := by
  rcases hsched : s.sched with _ | ⟨t, rest⟩
  · rw [step_of_sched_nil hsched, step_of_sched_nil (s := untracked s) hsched]
    exact fsmTurn_untracked s
  · rw [step_of_sched_cons hsched, step_of_sched_cons (s := untracked s) hsched]
    exact takeTurn_untracked t { s with sched := rest }

/-- Settles O45: both states step as the one that has forgotten the tracking does. -/
theorem trackedPagesDecideNothing : Obligations.TrackedPagesDecideNothing := by
  intro s t h
  have hstep : untrackedOutcome (step s) = untrackedOutcome (step t) := by
    rw [← step_untracked s, sameButTracking_iff.mp h, step_untracked t]
  revert hstep
  cases step s <;> cases step t <;> simp [untrackedOutcome, sameButTracking_iff]

end Sys2Proof.Machine
end

section
/-! Error entry (60_exceptions.md R301 to R306, R310): which state raises which cause, and what the state that an error
is raised in shares with the one whose action raised it. -/
namespace Sys2Proof.Machine

open Sys2Proof

/-! ### Which state raises which cause -/

/-- The decoder does not raise `TRUNCATED`: that is the mode check's (R155, R184). -/
theorem decodeFrame_error_ne_truncated {c : Config} {w : List Byte} {e : Cause} (h : decodeFrame c w = .error e) :
    e ≠ .truncated := by
  rintro rfl
  unfold decodeFrame at h
  repeat' split at h
  all_goals cases h

/-- The decoder's causes are raised where a frame is decoded: in the RX states and in DEC_RUN (R301). -/
theorem mayRaise_of_decodeFrame_error {c : Config} {w : List Byte} {e : Cause} (h : decodeFrame c w = .error e)
    {x : FsmState} (hx : (isRxState x || x == .decRun) = true) : mayRaise x e = true := by
  have hclass := classOf_of_decodeFrame_error h
  have htrunc := decodeFrame_error_ne_truncated h
  cases e
  case truncated => exact absurd rfl htrunc
  case short | oddLength | noTerminator | hdrSymbol | hdrSentinel | dataSymbol => exact hx
  all_goals cases hclass

/-- Whether a state receives in a mode: EMPTY for a setup acknowledge, EXACT or UPTO for any other reply (R184, R212,
R214, R219, R187). -/
def receivesIn (x : FsmState) (mode : RxMode) : Bool := isRxState x && (isSetupRxState x == (mode == .empty))

/-- The mode check's causes, by the modes of the states (R301). -/
theorem mayRaise_of_modeCheck {l k : Nat} {mode : RxMode} {e : Cause} (h : modeCheck l mode k = some e)
    {x : FsmState} (hx : receivesIn x mode = true) : mayRaise x e = true := by
  simp only [receivesIn, Bool.and_eq_true, beq_iff_eq] at hx
  obtain ⟨hrx, hsetup⟩ := hx
  obtain hnone | ⟨rfl, -, heq⟩ | ⟨rfl, -, heq⟩ := modeCheck_cases l mode k
  · rw [hnone] at h; cases h
  · rw [heq] at h
    cases h
    rw [mayRaise, hrx, hsetup]
    rfl
  · rw [heq] at h
    cases h
    exact hsetup

/-- BADREQ is raised in CHECK_ARGS alone (R112, R301). -/
theorem eq_checkArgs_of_mayRaise {x : FsmState} {e : Cause} (h : mayRaise x e = true) (he : classOf e = .badReq) :
    x = .checkArgs := by
  cases e
  case reservedOp | lenRange => exact eq_of_beq h
  all_goals cases he

/-! ### What an error is raised in -/

/-- What a state's action leaves as it was, up to the error that it raises: only the tracking in the two states that
write a register, and only what a receive or DEC_RUN records of the bytes it takes (R182, R163, R220, R242). -/
structure UpToError (s u : State) : Prop where
  host : hostSide u = hostSide s
  fsm : u.fsm = s.fsm
  attempt : u.attempt = s.attempt
  results : u.ack = s.ack ∧ u.statbyte = s.statbyte
  pages : u.mainPage = s.mainPage ∧ u.subPage = s.subPage
  valid : s.fsm ≠ .wrTx → s.fsm ≠ .psWrTx → u.mainValid = s.mainValid ∧ u.subValid = s.subValid
  memory : ∀ a, a < 0x800 → byteAt u a = byteAt s a
  wire : isRxState s.fsm = false → u.wlen = s.wlen ∧ u.mem = s.mem
  header : isRxState s.fsm = false → s.fsm ≠ .decRun → u.rxhdr = s.rxhdr ∧ u.rxhdrV = s.rxhdrV

theorem UpToError.refl (s : State) : UpToError s s where
  host := rfl
  fsm := rfl
  attempt := rfl
  results := ⟨rfl, rfl⟩
  pages := ⟨rfl, rfl⟩
  valid _ _ := ⟨rfl, rfl⟩
  memory _ _ := rfl
  wire _ := ⟨rfl, rfl⟩
  header _ _ := ⟨rfl, rfl⟩

/-- An action that raises an error of its state. -/
def Raises (s t : State) : Prop := ∃ e u, mayRaise s.fsm e = true ∧ UpToError s u ∧ t = raise e u

theorem Raises.intro {s u : State} {e : Cause} (hmay : mayRaise s.fsm e = true) (hu : UpToError s u) :
    Raises s (raise e u) := ⟨e, u, hmay, hu, rfl⟩

/-- An action that records no error, or raises one of its state. -/
def RaisesOwnErrors (s t : State) : Prop := t.err = 0 ∨ Raises s t

section Actions
variable {s : State}

theorem raisesOwnErrors_transmit {u : State} {next : State → State} (hx : isTxState s.fsm = true)
    (hu : UpToError s u) (he : u.err = 0) (hnext : ∀ t, (next t).err = t.err) (fcmd : Nibble) (d : List Byte) :
    RaisesOwnErrors s (transmit fcmd d next u) := by
  obtain ⟨l, -, -, -, heq | heq⟩ := transmit_cases fcmd d next u <;> rw [heq]
  · exact .inl ((hnext _).trans he)
  · exact .inr (.intro hx { hu with })

theorem raisesOwnErrors_transmit_advance {u : State} (hx : isTxState s.fsm = true) (hu : UpToError s u)
    (he : u.err = 0) (fcmd : Nibble) (d : List Byte) : RaisesOwnErrors s (transmit fcmd d advance u) :=
  raisesOwnErrors_transmit (next := advance) hx hu he (fun _ => rfl) fcmd d

/-- The bytes received stand in `WIREBUF` before any check (R182). -/
theorem UpToError.afterCollect (hx : isRxState s.fsm = true) (r : List Byte × List RxDraw × Bool) :
    UpToError s (afterCollect r s) :=
  { UpToError.refl s with
    memory := fun _ ha => byteAt_of_writeAll_outside (t := Machine.afterCollect r s) (bs := r.1) rfl rfl (.inl ha)
    wire := fun h => by rw [hx] at h; cases h }

/-- The header is recorded in the states that decode (R155). -/
theorem UpToError.recordHeader {u : State} (hu : UpToError s u) (hx : (isRxState s.fsm || s.fsm == .decRun) = true)
    (w : List Byte) : UpToError s (recordHeader w u) :=
  { hu with
    header := fun hrx hdec => by
      rw [hrx, Bool.false_or, beq_iff_eq] at hx
      exact absurd hx hdec }

theorem raisesOwnErrors_receive {mode : RxMode} {next : List Byte → State → State}
    (hx : receivesIn s.fsm mode = true) (he : s.err = 0) (hnext : ∀ out t, (next out t).err = t.err) (l : Nat) :
    RaisesOwnErrors s (receive l mode next s) := by
  have hrx : isRxState s.fsm = true := (Bool.and_eq_true_iff.mp hx).1
  have hdecodes : (isRxState s.fsm || s.fsm == .decRun) = true := by rw [hrx, Bool.true_or]
  have hcol := UpToError.afterCollect hrx (collect s.cfg.val.terminator (wireWindow l) 0 s.link.rx)
  obtain ⟨-, heq⟩ | ⟨-, e, heq, herr⟩ | ⟨-, hdr, out, -, -, heq⟩ := receive_cases l mode next s <;> rw [heq]
  case inl => exact .inr (.intro hrx hcol)
  case inr.inl =>
    refine .inr (.intro ?_ (hcol.recordHeader hdecodes _))
    obtain hdecode | ⟨-, out, -, hmode⟩ := herr
    · exact mayRaise_of_decodeFrame_error hdecode hdecodes
    · exact mayRaise_of_modeCheck hmode hx
  case inr.inr => exact .inl ((hnext _ _).trans he)

theorem raisesOwnErrors_receiveSack (hx : receivesIn s.fsm .empty = true) (he : s.err = 0) :
    RaisesOwnErrors s (receiveSack s) :=
  raisesOwnErrors_receive (next := fun _ => advance) hx he (fun _ _ => rfl) _

theorem raisesOwnErrors_receiveTrep (hx : receivesIn s.fsm .exact = true) (he : s.err = 0) (len : Byte) :
    RaisesOwnErrors s (receiveTrep len s) :=
  raisesOwnErrors_receive hx he (fun _ _ => by split <;> rfl) _

theorem raisesOwnErrors_receiveWack (hx : receivesIn s.fsm .exact = true) (he : s.err = 0) :
    RaisesOwnErrors s (receiveWack s) :=
  raisesOwnErrors_receive hx he (fun _ _ => by dsimp only; split <;> rfl) _

theorem raisesOwnErrors_recvRx (hs : s.fsm = .recvRx) (he : s.err = 0) : RaisesOwnErrors s (recvRx s) := by
  refine raisesOwnErrors_receive ?_ he ?_ _
  case refine_1 => unfold recvLength; split <;> rw [hs] <;> rfl
  case refine_2 => exact fun _ _ => rfl

theorem raisesOwnErrors_decRun (hs : s.fsm = .decRun) (he : s.err = 0) : RaisesOwnErrors s (decRun s) := by
  have hdecodes : (isRxState s.fsm || s.fsm == .decRun) = true := by rw [hs]; rfl
  obtain ⟨-, out, -, heq⟩ | ⟨e, hdecode, heq⟩ := decRun_spec s <;> rw [heq]
  · exact .inl he
  · exact .inr (.intro (mayRaise_of_decodeFrame_error hdecode hdecodes) ((UpToError.refl s).recordHeader hdecodes _))

theorem raisesOwnErrors_checkArgs (hs : s.fsm = .checkArgs) (he : s.err = 0) : RaisesOwnErrors s (checkArgs s) := by
  obtain ⟨x, heq⟩ | heq | heq | heq := checkArgs_cases s <;> rw [heq]
  case inl | inr.inl => exact .inl he
  all_goals exact .inr (.intro (beq_iff_eq.mpr hs) (.refl s))

theorem raisesOwnErrors_psCheck (hs : s.fsm = .psCheck) (he : s.err = 0) : RaisesOwnErrors s (psCheck s) := by
  obtain ⟨-, heq⟩ | ⟨-, -, heq⟩ | ⟨-, -, heq⟩ := psCheck_spec s <;> rw [heq]
  case inr.inr => exact .inr (.intro (beq_iff_eq.mpr hs) (.refl s))
  all_goals exact .inl he

end Actions

/-- A register write clears its tracking before its frame, so also where the frame then fails (R220, R242). -/
theorem UpToError.clearForWrite {s : State} (hs : s.fsm = .wrTx) (r : Byte) : UpToError s (clearForWrite r s) :=
  { UpToError.refl s with valid := fun h => absurd hs h }

theorem UpToError.clearSpace {s : State} (hs : s.fsm = .psWrTx) (sp : BitVec 1) : UpToError s (clearSpace sp s) :=
  { UpToError.refl s with valid := fun _ h => absurd hs h }

/-- Each state raises its own errors (R301, R310), state by state. -/
theorem raisesOwnErrors_fsmStep {s : State} (he : s.err = 0) : RaisesOwnErrors s (fsmStep s) := by
  cases hs : s.fsm <;> simp only [fsmStep, hs]
  case idle | faulted | encRun => exact .inl he
  case decRun => exact raisesOwnErrors_decRun hs he
  case checkArgs => exact raisesOwnErrors_checkArgs hs he
  case psCheck => exact raisesOwnErrors_psCheck hs he
  case sendTx =>
    exact raisesOwnErrors_transmit (next := fun t => complete (clearTracking t)) (by rw [hs]; rfl) (.refl s) he
      (fun _ => rfl) _ _
  case recvRx => exact raisesOwnErrors_recvRx hs he
  case rrSetupTx | rrTrigTx | psRdSetupTx | psRdTrigTx =>
    exact raisesOwnErrors_transmit_advance (by rw [hs]; rfl) (.refl s) he _ _
  case wrTx => exact raisesOwnErrors_transmit_advance (by rw [hs]; rfl) (.clearForWrite hs s.reg) he _ _
  case psWrTx => exact raisesOwnErrors_transmit_advance (by rw [hs]; rfl) (.clearSpace hs s.spacel) he _ _
  case rrSetupRx | psRdSetupRx => exact raisesOwnErrors_receiveSack (by rw [hs]; rfl) he
  case rrTrigRx | psRdTrigRx => exact raisesOwnErrors_receiveTrep (by rw [hs]; rfl) he _
  case wrRx | psWrRx => exact raisesOwnErrors_receiveWack (by rw [hs]; rfl) he

theorem raises_of_err_ne_zero {s : State} (he : s.err = 0) (herr : (fsmStep s).err ≠ 0) : Raises s (fsmStep s) :=
  (raisesOwnErrors_fsmStep he).resolve_left herr

/-! ### What an error records -/

/-- The code of BADREQ is that of no other class (R300). -/
theorem errCode_eq_five_iff {c : ErrClass} : errCode c = 5 ↔ c = .badReq := by
  cases c <;> decide

/-- SEND to SELECT_PAGE (R81). -/
theorem isLinkOp_iff : ∀ op : BitVec 4, isLinkOp op = true ↔ 3 ≤ op.toNat ∧ op.toNat ≤ 7 := by decide

theorem Ended.fsm_eq {s : State} (h : Ended s) : (s.err = 1 → s.fsm = .faulted) ∧ (s.err ≠ 1 → s.fsm = .idle) := by
  obtain ⟨-, ⟨hf, he⟩ | ⟨hf, he⟩⟩ := h
  · exact ⟨fun _ => hf, fun h => absurd he h⟩
  · exact ⟨fun h => absurd h he, fun _ => hf⟩

namespace Raises

variable {s t : State}

theorem ended (h : Raises s t) : Ended t := by
  obtain ⟨e, u, -, -, rfl⟩ := h
  exact ended_raise e u

theorem rlen (h : Raises s t) : t.rlen = 0 := by
  obtain ⟨e, u, -, -, rfl⟩ := h
  rfl

theorem attempt (h : Raises s t) : t.attempt = s.attempt := by
  obtain ⟨e, u, -, hu, rfl⟩ := h
  exact hu.attempt

theorem pages (h : Raises s t) : t.mainPage = s.mainPage ∧ t.subPage = s.subPage := by
  obtain ⟨e, u, -, hu, rfl⟩ := h
  exact hu.pages

/-- The phase is the state that raised the error (R302). -/
theorem errPhase (h : Raises s t) : t.errPhase = fsmCode s.fsm := by
  obtain ⟨e, u, -, hu, rfl⟩ := h
  exact congrArg fsmCode hu.fsm

/-- The context fields are those of the operation (R302). -/
theorem context (h : Raises s t) :
    t.errReg = (if s.opl = 5 ∨ s.opl = 6 then s.reg else if s.opl = 7 then selectReg s else 0) ∧
      t.errPage = (if s.opl = 7 then s.page else 0) ∧ t.errSpace = (if s.opl = 7 then s.spacel else 0) := by
  obtain ⟨e, u, -, hu, rfl⟩ := h
  have hopl : u.opl = s.opl := congrArg HostSide.opl hu.host
  have hreg : u.reg = s.reg := congrArg HostSide.reg hu.host
  have hpage : u.page = s.page := congrArg HostSide.page hu.host
  have hspace : u.spacel = s.spacel := congrArg HostSide.spacel hu.host
  have hcfg : u.cfg = s.cfg := congrArg HostSide.cfg hu.host
  rw [raise_errReg, raise_errPage, raise_errSpace, hopl, hreg, hpage, hspace, hcfg]
  exact ⟨rfl, rfl, rfl⟩

/-- An error of a link operation other than BADREQ clears both valid bits (R249). -/
theorem clears (h : Raises s t) (herr : t.err ≠ 5) (hop : isLinkOp s.opl = true) :
    t.mainValid = false ∧ t.subValid = false := by
  obtain ⟨e, u, -, hu, rfl⟩ := h
  have hopl : u.opl = s.opl := congrArg HostSide.opl hu.host
  have hclass : classOf e ≠ .badReq := mt errCode_eq_five_iff.mpr herr
  simp [invalidates, hopl, hop, hclass]

/-- BADREQ ends the argument check (R112). -/
theorem eq_checkArgs (h : Raises s t) (herr : t.err = 5) : s.fsm = .checkArgs := by
  obtain ⟨e, u, hmay, -, rfl⟩ := h
  exact eq_checkArgs_of_mayRaise hmay (errCode_eq_five_iff.mp herr)

/-- BADREQ, and an error of an operation without link traffic, clear none, outside the states that write a register
(R249). -/
theorem keepsValid (h : Raises s t) (hno : t.err = 5 ∨ isLinkOp s.opl = false) (hwr : s.fsm ≠ .wrTx)
    (hps : s.fsm ≠ .psWrTx) : t.mainValid = s.mainValid ∧ t.subValid = s.subValid := by
  obtain ⟨e, u, -, hu, rfl⟩ := h
  have hopl : u.opl = s.opl := congrArg HostSide.opl hu.host
  have hkeep : invalidates e u = false := invalidates_eq_false (hno.imp errCode_eq_five_iff.mp (hopl ▸ ·))
  obtain ⟨hmain, hsub⟩ := hu.valid hwr hps
  simp [hkeep, hmain, hsub]

end Raises

/-- Where BADREQ is raised, or in an operation without link traffic, no state writes a register (R21). -/
theorem BlockInv.not_register_write {s : State} (h : BlockInv s)
    (hs : s.fsm = .checkArgs ∨ isLinkOp s.opl = false) : s.fsm ≠ .wrTx ∧ s.fsm ≠ .psWrTx := by
  constructor
  all_goals
    intro hx
    obtain hc | hop := hs
    · rw [hx] at hc; cases hc
    · obtain ⟨hopl, -⟩ := h.request _ (congrArg requestOf hx)
      rw [hopl] at hop
      cases hop

/-- Settles O39: what the action left up to the error, and what the error entry then records. -/
theorem fsmErrorEntry : Obligations.FsmErrorEntry := by
  rintro s t hinv hb rfl herr
  obtain ⟨-, he, -⟩ := hinv.inProgress hb
  have hraises := raises_of_err_ne_zero he herr
  obtain ⟨hfaulted, hidle⟩ := hraises.ended.fsm_eq
  obtain ⟨hreg, hpage, hspace⟩ := hraises.context
  have hvalid : (fsmStep s).err = 5 ∨ s.opl = 1 ∨ s.opl = 2 →
      (fsmStep s).mainValid = s.mainValid ∧ (fsmStep s).subValid = s.subValid := fun h => by
    have hno : (fsmStep s).err = 5 ∨ isLinkOp s.opl = false := h.imp_right fun hop => by
      obtain hop | hop := hop <;> rw [hop] <;> rfl
    obtain ⟨hwr, hps⟩ := hinv.not_register_write (hno.imp_left hraises.eq_checkArgs)
    exact hraises.keepsValid hno hwr hps
  have hclears := fun h5 hop => hraises.clears h5 ((isLinkOp_iff s.opl).mpr hop)
  have hraised := hraises
  obtain ⟨e, u, hmay, hu, heq⟩ := hraised
  refine ⟨⟨e, hmay, by rw [heq]; rfl, by rw [heq]; rfl⟩, hraises.errPhase, hraises.rlen, hraises.ended.1, hfaulted,
    hidle, fun h => ?reg, fun h => ?select, fun h => ?noReg, fun h => ?noPage, hclears, hvalid, ?operands, ?kept,
    ?memory, ?wire, ?header⟩
  case reg => rw [hreg, if_pos h]
  case select => simp [hreg, hpage, hspace, h, selectReg]
  case noReg =>
    obtain ⟨h5, h6, h7⟩ := h
    rw [hreg, if_neg (not_or.mpr ⟨h5, h6⟩), if_neg h7]
  case noPage => exact ⟨hpage.trans (if_neg h), hspace.trans (if_neg h)⟩
  case operands =>
    have hhost := hostSide_fsmStep s
    exact ⟨congrArg HostSide.opl hhost, congrArg HostSide.spacel hhost, congrArg HostSide.fcmdl hhost,
      congrArg HostSide.reg hhost, congrArg HostSide.len hhost, congrArg HostSide.page hhost⟩
  case kept =>
    obtain ⟨hmain, hsub⟩ := hraises.pages
    have hoverrun := fsmStep_overrun s
    obtain ⟨hack, hstat⟩ := hu.results
    exact ⟨hraises.attempt, by rw [heq]; exact hack, by rw [heq]; exact hstat, hmain, hsub, hoverrun⟩
  case memory => rw [heq]; exact hu.memory
  case wire =>
    intro hrx
    obtain ⟨hwlen, hmem⟩ := hu.wire hrx
    rw [heq]
    exact ⟨hwlen, byteAt_congr hmem (congrArg HostSide.period hu.host)⟩
  case header => rw [heq]; exact hu.header

end Sys2Proof.Machine
end

section
/-! The last step of a request, and which errors clear the tracked pages (45_page_select.md R249). -/
namespace Sys2Proof.Machine

open Sys2Proof

/-! ### The steps of a request -/

section Run
variable {s t : State} {i : Instr} {op : BitVec 4} {sp : BitVec 1} {fc : Nibble}

/-- One more step of a run. -/
theorem fsmSteps_succ (n : Nat) (s : State) : fsmSteps (n + 1) s = fsmStep (fsmSteps n s) :=
  fsmSteps_add n 1 s

/-- While it runs, a request has recorded no error (R306). -/
theorem runningClean_of_busy {n : Nat} (h : busy (fsmSteps n (accept op sp fc s)) = true) :
    RunningClean (fsmSteps n (accept op sp fc s)) := by
  have hrun : RunningOrEnded (fsmSteps n (accept op sp fc s)) :=
    RunningOrEnded.fsmSteps (.inl (runningClean_accept op sp fc s)) n
  refine hrun.resolve_right fun hend => ?_
  rw [hend.not_busy] at h
  cases h

/-- A run of FSM steps from acceptance to an end is the whole request (R96, R111). -/
theorem exec_of_fsmSteps_end (hi : commandOf i = some (op, sp, fc)) (hr : s.resetIn = false) (hf : s.fsm = .idle)
    {n : Nat} (hend : busy (fsmSteps n (accept op sp fc s)) = false) :
    exec i s = .next (fsmSteps n (accept op sp fc s)) := by
  obtain ⟨m, -, -, hexec, hended, hbusy⟩ := requestIsFsmRun s i op sp fc hi hr hf
  have hmn : m ≤ n := by
    by_contra hlt
    rw [hbusy n (by omega)] at hend
    cases hend
  obtain ⟨d, rfl⟩ := Nat.exists_eq_add_of_le hmn
  rw [hexec, fsmSteps_add, fsmSteps_of_not_busy hended]

/-- A request ends by one step of its run. -/
theorem exists_last_step (hi : commandOf i = some (op, sp, fc)) (hr : s.resetIn = false) (hf : s.fsm = .idle)
    (ht : exec i s = .next t) :
    ∃ n, RunningClean (fsmSteps n (accept op sp fc s)) ∧ t = fsmStep (fsmSteps n (accept op sp fc s)) ∧
      busy t = false := by
  obtain ⟨m, hm, -, hexec, hend, hbusy⟩ := requestIsFsmRun s i op sp fc hi hr hf
  obtain ⟨n, rfl⟩ := Nat.exists_eq_add_of_le' hm
  rw [hexec, Host.Outcome.next.injEq] at ht
  subst ht
  exact ⟨n, runningClean_of_busy (hbusy n (by omega)), fsmSteps_succ n _, hend⟩

end Run

/-- An ended run, or one in another state, is not in CHECK_ARGS. -/
theorem EndedOrAt.fsm_ne_checkArgs {x : FsmState} {q : BitVec 3 → Prop} {s : State} (h : EndedOrAt x q s)
    (hx : x ≠ .checkArgs) : s.fsm ≠ .checkArgs := by
  rintro hs
  obtain hend | ⟨hat, -⟩ := h
  · rw [busy, hs] at hend
    cases hend
  · exact hx (hat.symm.trans hs)

/-- No step leads to CHECK_ARGS: acceptance alone does (R110, R112). -/
theorem fsmStep_fsm_ne_checkArgs (s : State) : (fsmStep s).fsm ≠ .checkArgs := by
  cases hs : s.fsm
  case checkArgs =>
    rw [fsmStep, hs]
    obtain ⟨-, -, x, hx, heq⟩ | ⟨-, heq⟩ | ⟨-, heq⟩ | ⟨-, heq⟩ := checkArgs_spec s <;> simp only [heq]
    · rintro rfl
      cases hx
    · exact nofun
    · exact raise_fsm_ne (by decide) (by decide) _ _
    · exact raise_fsm_ne (by decide) (by decide) _ _
  case psCheck =>
    rw [fsmStep, hs]
    exact EndedOrAt.fsm_ne_checkArgs (q := fun _ => True) ((psCheck_next s).imp_right fun h => ⟨h.1, trivial⟩) nofun
  case rrSetupTx | rrSetupRx | rrTrigTx | wrTx | psWrTx | psWrRx | psRdSetupTx | psRdSetupRx | psRdTrigTx
      | psRdTrigRx =>
    exact (fsmStep_endedOrAt (q := fun _ => True) hs trivial (by decide)).fsm_ne_checkArgs (by decide)
  all_goals
    exact EndedOrAt.fsm_ne_checkArgs (x := .idle) (q := fun _ => True) (.inl (fsmStep_ends hs (by decide))) nofun

/-! ### Invalidation -/

/-- A request that ends in BADREQ ended in its first step, the argument check, and left the link's side alone
(R112, R249). -/
theorem linkSide_of_badReq {s : State} {op : BitVec 4} {sp : BitVec 1} {fc : Nibble} {n : Nat}
    (hraises : Raises (fsmSteps n (accept op sp fc s)) (fsmStep (fsmSteps n (accept op sp fc s))))
    (herr : (fsmStep (fsmSteps n (accept op sp fc s))).err = 5) :
    linkSide (fsmStep (fsmSteps n (accept op sp fc s))) = linkSide s := by
  have hcheck := hraises.eq_checkArgs herr
  cases n with
  | zero => exact linkSide_checkArgs (accept op sp fc s)
  | succ n =>
    rw [fsmSteps_succ] at hcheck
    exact absurd hcheck (fsmStep_fsm_ne_checkArgs _)

/-- Settles O40: an error is raised by the last step of the request; BADREQ by the first, which is then the last. -/
theorem errorsInvalidateTracking : Obligations.ErrorsInvalidateTracking := by
  intro s t i op sp fc hi hr hf ht herr
  obtain ⟨n, ⟨-, hclean⟩, rfl, -⟩ := exists_last_step hi hr hf ht
  have hraises := raises_of_err_ne_zero hclean herr
  refine ⟨fun ⟨h3, h7, h5⟩ => ?clears, fun hkeeps => ?keeps⟩
  case clears =>
    have hopl : (fsmSteps n (accept op sp fc s)).opl = op := congrArg HostSide.opl (hostSide_fsmSteps n _)
    exact hraises.clears h5 (by rw [hopl]; exact (isLinkOp_iff op).mpr ⟨h3, h7⟩)
  case keeps =>
    have hlink : linkSide (fsmStep (fsmSteps n (accept op sp fc s))) = linkSide s := by
      obtain rfl | rfl | h5 := hkeeps
      · exact linkSide_exec hi (.inl (by decide)) ht
      · exact linkSide_exec hi (.inl (by decide)) ht
      · exact linkSide_of_badReq hraises h5
    exact ⟨congrArg LinkSide.mainValid hlink, congrArg LinkSide.mainPage hlink, congrArg LinkSide.subValid hlink,
      congrArg LinkSide.subPage hlink⟩

end Sys2Proof.Machine
end

section
/-! A select in progress (45_page_select.md R240 to R246, R249, R250): what every step of its request keeps, and the
ways it can end. -/
namespace Sys2Proof.Machine

open Sys2Proof

/-! ### What a select keeps -/

/-- A select accepted in `s` is in progress in `u`: the page values are those of `s` and so is the other space's valid
bit (R250); the request is in its argument check or in an attempt within the budget (R243); and a value read back stands
with its length (R242). -/
structure Selecting (s : State) (sp : BitVec 1) (fc : Nibble) (u : State) : Prop where
  host : hostSide u = hostSide (accept 7 sp fc s)
  pages : u.mainPage = s.mainPage ∧ u.subPage = s.subPage
  otherSpace : (sp = 0 → u.subValid = s.subValid) ∧ (sp = 1 → u.mainValid = s.mainValid)
  place : u.fsm = .checkArgs ∨
    requestOf u.fsm = some 7 ∧ 1 ≤ u.attempt.toNat ∧ u.attempt.toNat ≤ budget s.cfg.val sp
  readBack : u.fsm = .psCheck → u.rlen = 1

theorem selecting_accept (s : State) (sp : BitVec 1) (fc : Nibble) : Selecting s sp fc (accept 7 sp fc s) where
  host := rfl
  pages := ⟨rfl, rfl⟩
  otherSpace := ⟨fun _ => rfl, fun _ => rfl⟩
  place := .inl rfl
  readBack := nofun

theorem raise_err_ne_zero (e : Cause) (s : State) : (raise e s).err ≠ 0 := by
  rw [raise_err]
  cases e <;> decide

section Steps
variable {s u : State} {sp : BitVec 1} {fc : Nibble}

namespace Selecting

theorem opl_eq (h : Selecting s sp fc u) : u.opl = 7 := congrArg HostSide.opl h.host

theorem spacel_eq (h : Selecting s sp fc u) : u.spacel = sp := congrArg HostSide.spacel h.host

theorem page_eq (h : Selecting s sp fc u) : u.page = s.page := congrArg HostSide.page h.host

theorem cfg_eq (h : Selecting s sp fc u) : u.cfg = s.cfg := congrArg HostSide.cfg h.host

theorem is_busy (h : Selecting s sp fc u) : busy u = true := by
  obtain hs | ⟨hop, -⟩ := h.place
  · rw [busy, hs]; rfl
  · exact busy_of_requestOf hop

/-- Where an attempt is in progress. -/
theorem inAttempt (h : Selecting s sp fc u) (hop : requestOf u.fsm = some 7) :
    1 ≤ u.attempt.toNat ∧ u.attempt.toNat ≤ budget s.cfg.val sp := by
  obtain hs | ⟨-, hbounds⟩ := h.place
  · rw [hs] at hop; cases hop
  · exact hbounds

/-- On to the follower of a state (R242). -/
theorem advance (h : Selecting s sp fc u) (hop : requestOf u.fsm = some 7)
    (hread : followState u.fsm = .psCheck → u.rlen = 1) : Selecting s sp fc (advance u) :=
  { h with
    place := .inr ⟨(requestOf_followState u.fsm).trans hop, h.inAttempt hop⟩
    readBack := hread }

/-- Writing the page forgets the tracking of its own space alone (R242, R250). -/
theorem clearSpace (h : Selecting s sp fc u) : Selecting s sp fc (clearSpace u.spacel u) := by
  obtain ⟨hsub, hmain⟩ := h.otherSpace
  have hsp := h.spacel_eq
  exact { h with
    otherSpace := ⟨fun h0 => by simp [hsp, h0, hsub h0], fun h1 => by simp [hsp, h1, hmain h1]⟩ }

/-- A message sent goes on to the reply, or raises an error (R180). -/
theorem transmit (h : Selecting s sp fc u) (hop : requestOf u.fsm = some 7) (hx : followState u.fsm ≠ .psCheck)
    (fcmd : Nibble) (d : List Byte) :
    Selecting s sp fc (Machine.transmit fcmd d Machine.advance u) ∨
      (Machine.transmit fcmd d Machine.advance u).err ≠ 0 := by
  obtain ⟨l, -, -, -, heq | heq⟩ := transmit_cases fcmd d Machine.advance u <;> rw [heq]
  · have hsent : Selecting s sp fc { u with txf := encodeFrame u.cfg.val fcmd d, link := l } := { h with }
    exact .inl (hsent.advance hop fun hcheck => absurd hcheck hx)
  · exact .inr (raise_err_ne_zero _ _)

/-- A reply received goes on as its state does, or raises an error (R182). -/
theorem receive (h : Selecting s sp fc u) {next : List Byte → State → State}
    (hnext : ∀ out t, Selecting s sp fc t → t.fsm = u.fsm → Selecting s sp fc (next out t)) (l : Nat)
    (mode : RxMode) :
    Selecting s sp fc (Machine.receive l mode next u) ∨ (Machine.receive l mode next u).err ≠ 0 := by
  obtain ⟨-, heq⟩ | ⟨-, e, heq, -⟩ | ⟨-, hdr, out, -, -, heq⟩ := receive_cases l mode next u <;> rw [heq]
  case inr.inr => exact .inl (hnext _ _ { h with } rfl)
  all_goals exact .inr (raise_err_ne_zero _ _)

/-- The argument check lets a select past, into its first attempt (R112). -/
theorem checkArgs_eq (h : Selecting s sp fc u) : checkArgs u = Machine.goto .psWrTx { u with attempt := 1 } := by
  rw [checkArgs, h.opl_eq]
  rfl

theorem checkArgs (h : Selecting s sp fc u) : Selecting s sp fc (checkArgs u) := by
  have hcounted : Selecting s sp fc { Machine.goto .psWrTx u with attempt := 1 } :=
    { h with
      place := .inr ⟨rfl, Nat.le_refl 1, (budget_bounds s.cfg sp).1⟩
      readBack := nofun }
  rw [h.checkArgs_eq]
  exact hcounted

/-- A step of a select other than the comparison goes on, or raises an error (R242, R246). -/
theorem fsmStep (h : Selecting s sp fc u) (hx : u.fsm ≠ .psCheck) :
    Selecting s sp fc (fsmStep u) ∨ (Machine.fsmStep u).err ≠ 0 := by
  obtain hs | ⟨hop, -⟩ := h.place
  case inl =>
    rw [Machine.fsmStep, hs]
    exact .inl h.checkArgs
  case inr =>
    cases hs : u.fsm <;> simp only [hs, requestOf, reduceCtorEq, Option.some.injEq, BitVec.reduceEq] at hop <;>
      simp only [Machine.fsmStep, hs]
    case psWrTx => exact h.clearSpace.transmit (congrArg requestOf hs) (by simp [hs, followState]) _ _
    case psRdSetupTx | psRdTrigTx => exact h.transmit (congrArg requestOf hs) (by simp [hs, followState]) _ _
    case psWrRx =>
      refine h.receive (fun out t ht hf => ?_) _ _
      have hack : Selecting s sp fc { t with ack := out.headD 0 } := { ht with }
      dsimp only
      rw [if_neg (by simp [hf, hs])]
      exact hack.advance (congrArg requestOf (hf.trans hs)) (by simp [hf, hs, followState])
    case psRdSetupRx =>
      refine h.receive (fun _ t ht hf => ?_) _ _
      exact ht.advance (congrArg requestOf (hf.trans hs)) (by simp [hf, hs, followState])
    case psRdTrigRx =>
      refine h.receive (fun out t ht hf => ?_) _ _
      have hstored : Selecting s sp fc (storeReply 1 out t) := { ht with readBack := fun _ => rfl }
      rw [if_neg (by simp [hf, hs])]
      exact hstored.advance (congrArg requestOf (hf.trans hs)) fun _ => rfl
    case psCheck => exact absurd hs hx

/-- The comparison succeeds, starts another attempt within the budget, or raises an error (R243 to R245). -/
theorem psCheck (h : Selecting s sp fc u) :
    (byteAt u rxBase = s.page ∧ psCheck u = complete (setSpace sp s.page u)) ∨
      Selecting s sp fc (Machine.psCheck u) ∨ (Machine.psCheck u).err ≠ 0 := by
  have hsp := h.spacel_eq
  have hpage := h.page_eq
  obtain ⟨hsame, heq⟩ | ⟨-, hlt, heq⟩ | ⟨-, -, heq⟩ := psCheck_spec u <;> rw [heq]
  · exact .inl ⟨hsame.trans hpage, by rw [hsp, hpage]⟩
  · rw [h.cfg_eq, hsp] at hlt
    have hle := (budget_bounds s.cfg sp).2
    have hnext : (u.attempt + 1).toNat = u.attempt.toNat + 1 := by
      rw [BitVec.toNat_add]
      exact Nat.mod_eq_of_lt (show u.attempt.toNat + 1 < 8 by omega)
    have hcounted : Selecting s sp fc { Machine.goto .psWrTx u with attempt := u.attempt + 1 } :=
      { h with
        place := .inr ⟨rfl, hnext ▸ Nat.le_add_left 1 _, hnext ▸ hlt⟩
        readBack := nofun }
    exact .inr (.inl hcounted)
  · exact .inr (.inr (raise_err_ne_zero _ _))

end Selecting

/-- While it runs, a select's request keeps what `Selecting` says. -/
theorem selecting_fsmSteps {n : Nat} (hb : busy (fsmSteps n (accept 7 sp fc s)) = true) :
    Selecting s sp fc (fsmSteps n (accept 7 sp fc s)) := by
  induction n with
  | zero => exact selecting_accept s sp fc
  | succ n ih =>
    have hclean := (runningClean_of_busy hb).2
    rw [fsmSteps_succ] at hb hclean ⊢
    have hbefore : busy (fsmSteps n (accept 7 sp fc s)) = true := by
      by_contra hend
      rw [fsmStep_of_not_busy (by simpa using hend)] at hb
      exact hend hb
    have h := ih hbefore
    by_cases hs : (fsmSteps n (accept 7 sp fc s)).fsm = .psCheck
    case neg => exact (h.fsmStep hs).resolve_right (not_not.mpr hclean)
    case pos =>
      have hstep : fsmStep (fsmSteps n (accept 7 sp fc s)) = psCheck (fsmSteps n (accept 7 sp fc s)) := by
        rw [fsmStep, hs]
      rw [hstep] at hb hclean ⊢
      obtain ⟨-, hdone⟩ | h | herr := h.psCheck
      · rw [hdone] at hb; cases hb
      · exact h
      · exact absurd hclean herr

end Steps

/-! ### The ends of a select -/

/-- Settles O23: a select that ends without an error ends in the comparison, by equality. -/
theorem selectPageSuccess : Obligations.SelectPageSuccess := by
  intro s t sp fc hr hf ht herr
  obtain ⟨n, ⟨hb, -⟩, rfl, hend⟩ := exists_last_step (i := .selectPage sp fc) rfl hr hf ht
  have h := selecting_fsmSteps hb
  generalize fsmSteps n (accept 7 sp fc s) = u at h hend herr
  have hnot : ¬ Selecting s sp fc (fsmStep u) := fun hgo => by rw [hgo.is_busy] at hend; cases hend
  have hs : u.fsm = .psCheck := by
    by_contra hx
    exact (h.fsmStep hx).elim hnot (· herr)
  have hstep : fsmStep u = psCheck u := by rw [fsmStep, hs]
  rw [hstep] at hnot herr ⊢
  obtain ⟨hsame, hdone⟩ | hgo | hne := h.psCheck
  case inr.inl => exact absurd hgo hnot
  case inr.inr => exact absurd herr hne
  case inl =>
    obtain ⟨hfirst, hbudget⟩ := h.inAttempt (congrArg requestOf hs)
    obtain ⟨hmain, hsub⟩ := h.pages
    rw [hdone]
    refine ⟨rfl, rfl, hsame, h.readBack hs, hfirst, hbudget, fun h0 => ?_, fun h1 => ?_⟩
    · simp [h0, hsub, h.otherSpace.1 h0]
    · simp [h1, hmain, h.otherSpace.2 h1]

/-- A step of a select that raises an error ends it, with the error's record (R246, R302). -/
theorem select_ends_of_error {s : State} {sp : BitVec 1} {fc : Nibble} (hr : s.resetIn = false) (hf : s.fsm = .idle)
    {k : Nat} {u t : State} (hu : u = fsmSteps k (accept 7 sp fc s)) (ht : t = fsmStep u) (hb : busy u = true)
    (herr : t.err ≠ 0) :
    exec (.selectPage sp fc) s = .next t ∧ t.done = true ∧
      (t.err = 1 → t.fsm = .faulted) ∧ (t.err ≠ 1 → t.fsm = .idle) ∧
      t.errPhase = fsmCode u.fsm ∧ t.attempt = u.attempt ∧
      t.errReg = pageReg s.cfg.val sp ∧ t.errPage = s.page ∧ t.errSpace = sp ∧ t.rlen = 0 ∧
      t.mainValid = false ∧ t.subValid = false ∧ t.mainPage = s.mainPage ∧ t.subPage = s.subPage := by
  subst hu ht
  have hclean := (runningClean_of_busy hb).2
  have h := selecting_fsmSteps hb
  have hraises := raises_of_err_ne_zero hclean herr
  have hexec : exec (.selectPage sp fc) s = .next (fsmStep (fsmSteps k (accept 7 sp fc s))) := by
    rw [← fsmSteps_succ]
    exact exec_of_fsmSteps_end rfl hr hf (fsmSteps_succ k _ ▸ hraises.ended.not_busy)
  generalize fsmSteps k (accept 7 sp fc s) = u at *
  have h5 : (fsmStep u).err ≠ 5 := fun h5 => herr <| by
    rw [fsmStep, hraises.eq_checkArgs h5]
    exact h.checkArgs_eq ▸ hclean
  obtain ⟨hvalidMain, hvalidSub⟩ := hraises.clears h5 (h.opl_eq ▸ rfl)
  obtain ⟨hfaulted, hidle⟩ := hraises.ended.fsm_eq
  obtain ⟨hreg, hpage, hspace⟩ := hraises.context
  obtain ⟨hmain, hsub⟩ := hraises.pages
  have hselect : selectReg u = pageReg s.cfg.val sp := by rw [selectReg, h.cfg_eq, h.spacel_eq]
  simp only [h.opl_eq, hselect, h.page_eq, h.spacel_eq] at hreg hpage hspace
  exact ⟨hexec, hraises.ended.1, hfaulted, hidle, hraises.errPhase, hraises.attempt, hreg, hpage, hspace,
    hraises.rlen, hvalidMain, hvalidSub, hmain.trans h.pages.1, hsub.trans h.pages.2⟩

end Sys2Proof.Machine
end

section
/-! The attempts of a select whose transmits succeed and whose replies arrive (45_page_select.md R242 to R247). -/
namespace Sys2Proof.Machine

open Sys2Proof

/-! ### The states of an attempt -/

/-- A message under `TX_CMD` has left, and the FSM stands in the state that waits for the reply (R242). -/
def sentMessage (x : FsmState) (d : List Byte) (u : State) : State :=
  { u with
    fsm := x
    txf := encodeFrame u.cfg.val u.cfg.val.txCmd d
    link := { u.link with
      tx := u.link.tx.drop 1
      out := u.link.out ++ encodeFrame u.cfg.val u.cfg.val.txCmd d } }

section Attempt
variable {u : State} {h : Byte} {n : Nibble} {d : List Byte} {value status : Byte} {rest : List RxDraw}

theorem fsmStep_psWrTx (hs : u.fsm = .psWrTx) (htx : txSucceeds 1 u) :
    fsmStep u =
      sentMessage .psWrRx (wrBytes u.cfg.val (selectReg u) [u.page]) (clearSpace u.spacel u) := by
  have haction : fsmStep u = psWrTx u := by rw [fsmStep, hs]
  exact haction.trans
    (transmit_advance_of_txSucceeds (s := clearSpace u.spacel u) htx (congrArg followState hs) _ _)

theorem fsmStep_psRdSetupTx (hs : u.fsm = .psRdSetupTx) (htx : txSucceeds 1 u) :
    fsmStep u = sentMessage .psRdSetupRx (rrsBytes u.cfg.val 1 (selectReg u)) u := by
  have haction : fsmStep u = psRdSetupTx u := by rw [fsmStep, hs]
  exact haction.trans (transmit_advance_of_txSucceeds htx (congrArg followState hs) _ _)

theorem fsmStep_psRdTrigTx (hs : u.fsm = .psRdTrigTx) (htx : txSucceeds 1 u) :
    fsmStep u = sentMessage .psRdTrigRx (rrtBytes u.cfg.val 1) u := by
  have haction : fsmStep u = psRdTrigTx u := by rw [fsmStep, hs]
  exact haction.trans (transmit_advance_of_txSucceeds htx (congrArg followState hs) _ _)

theorem fsmStep_psWrRx (hs : u.fsm = .psWrRx) (hh : goodHeader u.cfg.val h n)
    (hlen : d.length = u.cfg.val.wrAckLen) (hrx : u.link.rx = arriving (replyFrame u.cfg.val h d) ++ rest) :
    fsmStep u = goto .psRdSetupTx { afterReply (replyFrame u.cfg.val h d) n rest u with ack := d.headD 0 } := by
  have haction : fsmStep u = receiveWack u := by rw [fsmStep, hs, psWrRx]
  rw [haction, receiveWack, receive_exact_replyFrame hh hlen hrx]
  simp only [afterReply, hs]
  rfl

theorem fsmStep_psRdSetupRx (hs : u.fsm = .psRdSetupRx) (hh : goodHeader u.cfg.val h n)
    (hrx : u.link.rx = arriving (replyFrame u.cfg.val h []) ++ rest) :
    fsmStep u = goto .psRdTrigTx (afterReply (replyFrame u.cfg.val h []) n rest u) := by
  have haction : fsmStep u = receiveSack u := by rw [fsmStep, hs, psRdSetupRx]
  rw [haction, receiveSack, receive_replyFrame hh (Nat.zero_le _) rfl hrx]
  exact congrArg (fun x => goto (followState x) _) hs

theorem fsmStep_psRdTrigRx (hs : u.fsm = .psRdTrigRx) (hh : goodHeader u.cfg.val h n)
    (hrx : u.link.rx = arriving (replyFrame u.cfg.val h [value, status]) ++ rest) :
    fsmStep u =
      goto .psCheck (storeReply 1 [value, status] (afterReply (replyFrame u.cfg.val h [value, status]) n rest u)) := by
  have haction : fsmStep u = receiveTrep 1 u := by rw [fsmStep, hs, psRdTrigRx]
  have hlen : [value, status].length = (1 : Byte).toNat + 1 := rfl
  rw [haction, receiveTrep, receive_exact_replyFrame hh hlen hrx]
  simp only [afterReply, storeReply, hs]
  rfl

/-- An acknowledge that is too short is refused (R184, R242). -/
theorem fsmStep_psWrRx_truncated (hs : u.fsm = .psWrRx) (hh : goodHeader u.cfg.val h n)
    (hlen : d.length < u.cfg.val.wrAckLen) (hrx : u.link.rx = arriving (replyFrame u.cfg.val h d) ++ rest) :
    fsmStep u = raise .truncated (afterReply (replyFrame u.cfg.val h d) n rest u) := by
  have haction : fsmStep u = receiveWack u := by rw [fsmStep, hs, psWrRx]
  have hmode : modeCheck u.cfg.val.wrAckLen .exact d.length = some .truncated := if_neg hlen.ne
  exact haction.trans (receive_replyFrame_refused hh hlen.le hmode hrx _)

/-! ### The exchanges of an attempt -/

/-- What a message and its reply leave: the message is out, the reply is taken off the link, and the FSM stands in the
next state (R242). -/
structure Exchanged (x : FsmState) (d : List Byte) (rest : List RxDraw) (u v : State) : Prop where
  host : hostSide v = hostSide u
  fsm : v.fsm = x
  attempt : v.attempt = u.attempt
  rx : v.link.rx = rest
  tx : v.link.tx = u.link.tx.drop 1
  out : v.link.out = u.link.out ++ encodeFrame u.cfg.val u.cfg.val.txCmd d

theorem fsmSteps_two {v w : State} (hv : fsmStep u = v) (hw : fsmStep v = w) : fsmSteps 2 u = w := by
  subst hv hw
  rfl

/-- The value read back is the first byte of the last reply stored. -/
theorem byteAt_storeReply (len value status : Byte) (u : State) :
    byteAt (storeReply len [value, status] u) rxBase = value :=
  byteAt_of_writeAll_at (s := u) (bs := [value, status]) (i := 0) rfl (Nat.zero_lt_succ _) (by decide)

section Exchanges
variable {c : Params} (hc : u.cfg = c) (htx : txSucceeds 1 u) (hh : goodHeader c.val h n)
include hc htx hh

/-- The page is written and acknowledged. -/
theorem exchanged_write (hs : u.fsm = .psWrTx) (hlen : d.length = c.val.wrAckLen)
    (hrx : u.link.rx = arriving (replyFrame c.val h d) ++ rest) :
    Exchanged .psRdSetupTx (wrBytes c.val (selectReg u) [u.page]) rest u (fsmSteps 2 u) ∧
      (fsmSteps 2 u).ack = d.headD 0 := by
  subst hc
  have hhost := hostSide_fsmSteps 2 u
  rw [fsmSteps_two (fsmStep_psWrTx hs htx) (fsmStep_psWrRx rfl hh hlen hrx)] at hhost ⊢
  exact ⟨⟨hhost, rfl, rfl, rfl, rfl, rfl⟩, rfl⟩

/-- The read-back is set up. -/
theorem exchanged_setup (hs : u.fsm = .psRdSetupTx) (hrx : u.link.rx = arriving (replyFrame c.val h []) ++ rest) :
    Exchanged .psRdTrigTx (rrsBytes c.val 1 (selectReg u)) rest u (fsmSteps 2 u) ∧ (fsmSteps 2 u).ack = u.ack := by
  subst hc
  have hhost := hostSide_fsmSteps 2 u
  rw [fsmSteps_two (fsmStep_psRdSetupTx hs htx) (fsmStep_psRdSetupRx rfl hh hrx)] at hhost ⊢
  exact ⟨⟨hhost, rfl, rfl, rfl, rfl, rfl⟩, rfl⟩

/-- The read-back is triggered and its reply stored. -/
theorem exchanged_trigger (hs : u.fsm = .psRdTrigTx)
    (hrx : u.link.rx = arriving (replyFrame c.val h [value, status]) ++ rest) :
    Exchanged .psCheck (rrtBytes c.val 1) rest u (fsmSteps 2 u) ∧ (fsmSteps 2 u).ack = u.ack ∧
      byteAt (fsmSteps 2 u) rxBase = value ∧ (fsmSteps 2 u).statbyte = status := by
  subst hc
  have hhost := hostSide_fsmSteps 2 u
  rw [fsmSteps_two (fsmStep_psRdTrigTx hs htx) (fsmStep_psRdTrigRx rfl hh hrx)] at hhost ⊢
  exact ⟨⟨hhost, rfl, rfl, rfl, rfl, rfl⟩, rfl, byteAt_storeReply 1 value status _, rfl⟩

end Exchanges

/-- With every answer ok, so is the first of those left after some (R180). -/
theorem txSucceeds_of_drop {v : State} (htx : ∀ x ∈ u.link.tx, x = .ok) {j : Nat} (hv : v.link.tx = u.link.tx.drop j) :
    txSucceeds 1 v :=
  fun x hx => htx x (List.mem_of_mem_drop (hv ▸ List.mem_of_mem_take hx))

end Attempt

/-! ### The attempts of a select -/

/-- A state on the run of a select accepted in `s` (R111). -/
def OnSelectRun (s : State) (sp : BitVec 1) (fc : Nibble) (u : State) : Prop :=
  ∃ n, u = fsmSteps n (accept 7 sp fc s)

namespace OnSelectRun

variable {s u : State} {sp : BitVec 1} {fc : Nibble}

theorem steps (h : OnSelectRun s sp fc u) (m : Nat) : OnSelectRun s sp fc (fsmSteps m u) := by
  obtain ⟨n, rfl⟩ := h
  exact ⟨n + m, (fsmSteps_add n m _).symm⟩

theorem step (h : OnSelectRun s sp fc u) : OnSelectRun s sp fc (fsmStep u) := h.steps 1

theorem selecting (h : OnSelectRun s sp fc u) (hb : busy u = true) : Selecting s sp fc u := by
  obtain ⟨n, rfl⟩ := h
  exact selecting_fsmSteps hb

theorem err_eq_zero (h : OnSelectRun s sp fc u) (hb : busy u = true) : u.err = 0 := by
  obtain ⟨n, rfl⟩ := h
  exact (runningClean_of_busy hb).2

/-- The end of the run is the outcome of the request (R96, R111). -/
theorem exec_of_end (h : OnSelectRun s sp fc u) (hr : s.resetIn = false) (hf : s.fsm = .idle)
    (hend : busy u = false) : exec (.selectPage sp fc) s = .next u := by
  obtain ⟨n, rfl⟩ := h
  exact exec_of_fsmSteps_end rfl hr hf hend

end OnSelectRun

/-- A select accepted in `s` is at the start of an attempt, after `k` attempts that read another value back: each
transmitted its three frames, and `rest` is still on the link (R242 to R244). -/
structure AttemptStart (s : State) (sp : BitVec 1) (fc : Nibble) (k : Nat) (rest : List RxDraw) (u : State) : Prop where
  reached : OnSelectRun s sp fc u
  fsm : u.fsm = .psWrTx
  attempt : u.attempt.toNat = k + 1
  rx : u.link.rx = rest
  tx : ∀ x ∈ u.link.tx, x = .ok
  out : u.link.out = s.link.out ++ (List.replicate k (attemptOut s.cfg.val sp s.page)).flatten

section Select
variable {s u : State} {sp : BitVec 1} {fc : Nibble} {k : Nat} {r : SelectReply} {rest : List RxDraw}

/-- The first attempt follows the argument check (R112, R240). -/
theorem attemptStart_first (htx : ∀ x ∈ s.link.tx, x = .ok) :
    AttemptStart s sp fc 0 s.link.rx (fsmStep (accept 7 sp fc s)) where
  reached := ⟨1, rfl⟩
  fsm := rfl
  attempt := rfl
  rx := rfl
  tx := htx
  out := (List.append_nil _).symm

theorem AttemptStart.selecting (h : AttemptStart s sp fc k rest u) : Selecting s sp fc u :=
  h.reached.selecting (busy_of_requestOf (congrArg requestOf h.fsm))

/-- A select accepted in `s` compares the value that the replies `r` of an attempt read back, after `k` attempts that
read another value back (R243). -/
structure Comparing (s : State) (sp : BitVec 1) (fc : Nibble) (k : Nat) (r : SelectReply) (rest : List RxDraw)
    (v : State) : Prop where
  reached : OnSelectRun s sp fc v
  fsm : v.fsm = .psCheck
  attempt : v.attempt.toNat = k + 1
  value : byteAt v rxBase = r.value
  ack : v.ack = r.ack.headD 0
  status : v.statbyte = r.status
  rx : v.link.rx = rest
  tx : ∀ x ∈ v.link.tx, x = .ok
  out : v.link.out = s.link.out ++ (List.replicate (k + 1) (attemptOut s.cfg.val sp s.page)).flatten

/-- An attempt whose replies arrive comes to the comparison, exchange by exchange (R242). -/
theorem AttemptStart.comparing (h : AttemptStart s sp fc k (arriving (r.wire s.cfg.val) ++ rest) u)
    (hr : r.good s.cfg.val) : Comparing s sp fc k r rest (fsmSteps 6 u) := by
  obtain ⟨hh1, hh2, hh3, hack⟩ := hr
  have hsel := h.selecting
  have hrx := h.rx
  rw [SelectReply.wire, arriving, List.map_append, List.map_append, List.append_assoc, List.append_assoc] at hrx
  obtain ⟨h1, hack1⟩ := exchanged_write hsel.cfg_eq (txSucceeds_of_drop (j := 0) h.tx rfl) hh1 h.fsm hack hrx
  have hsel1 : hostSide (fsmSteps 2 u) = hostSide (accept 7 sp fc s) := h1.host.trans hsel.host
  have hcfg1 : (fsmSteps 2 u).cfg = s.cfg := congrArg HostSide.cfg hsel1
  have hspace1 : (fsmSteps 2 u).spacel = sp := congrArg HostSide.spacel hsel1
  obtain ⟨h2, hack2⟩ := exchanged_setup hcfg1 (txSucceeds_of_drop h.tx h1.tx) hh2 h1.fsm h1.rx
  have hcfg2 : (fsmSteps 2 (fsmSteps 2 u)).cfg = s.cfg := (congrArg HostSide.cfg h2.host).trans hcfg1
  have htx2 : (fsmSteps 2 (fsmSteps 2 u)).link.tx = u.link.tx.drop 2 := by rw [h2.tx, h1.tx, List.drop_drop]
  obtain ⟨h3, hack3, hvalue, hstatus⟩ := exchanged_trigger hcfg2 (txSucceeds_of_drop h.tx htx2) hh3 h2.fsm h2.rx
  exact
    { reached := h.reached.steps 6
      fsm := h3.fsm
      attempt := (congrArg BitVec.toNat (h3.attempt.trans (h2.attempt.trans h1.attempt))).trans h.attempt
      value := hvalue
      ack := hack3.trans (hack2.trans hack1)
      status := hstatus
      rx := h3.rx
      tx := fun x hx => h.tx x (List.mem_of_mem_drop (htx2 ▸ List.mem_of_mem_drop (h3.tx ▸ hx)))
      out := h3.out.trans (by
        rw [hcfg2, h2.out, hcfg1, h1.out, h.out, hsel.cfg_eq, selectReg, selectReg, hcfg1, hspace1, hsel.cfg_eq,
          hsel.spacel_eq, hsel.page_eq, List.replicate_succ', List.flatten_concat, attemptOut]
        simp only [List.append_assoc]) }

namespace Comparing

variable {v : State}

theorem selecting (h : Comparing s sp fc k r rest v) : Selecting s sp fc v :=
  h.reached.selecting (busy_of_requestOf (congrArg requestOf h.fsm))

theorem fsmStep_eq (h : Comparing s sp fc k r rest v) : fsmStep v = psCheck v := by rw [fsmStep, h.fsm]

/-- Below the budget a mismatch starts the next attempt (R244). -/
theorem next_attempt (h : Comparing s sp fc k r rest v) (hne : r.value ≠ s.page) (hk : k + 1 < budget s.cfg.val sp) :
    AttemptStart s sp fc (k + 1) rest (fsmStep v) := by
  have hsel := h.selecting
  have hle := (budget_bounds s.cfg sp).2
  have hreached := h.reached.step
  have hstep : fsmStep v = goto .psWrTx { v with attempt := v.attempt + 1 } := by
    rw [h.fsmStep_eq, psCheck, h.value, hsel.page_eq, if_neg hne, h.attempt, hsel.cfg_eq, hsel.spacel_eq, if_pos hk]
  have hcount : (v.attempt + 1).toNat = k + 1 + 1 := by
    rw [BitVec.toNat_add, h.attempt]
    exact Nat.mod_eq_of_lt (show k + 1 + 1 < 8 by omega)
  rw [hstep]
  exact
    { reached := hstep ▸ hreached
      fsm := rfl
      attempt := hcount
      rx := h.rx
      tx := h.tx
      out := h.out }

/-- At the budget a mismatch is the error (R245). -/
theorem exhausted (h : Comparing s sp fc k r rest v) (hne : r.value ≠ s.page) (hk : budget s.cfg.val sp = k + 1) :
    fsmStep v = raise .budgetExhausted v := by
  have hsel := h.selecting
  rw [h.fsmStep_eq, psCheck, h.value, hsel.page_eq, if_neg hne, h.attempt, hsel.cfg_eq, hsel.spacel_eq,
    if_neg (by omega)]

/-- A match completes the select (R244). -/
theorem matched (h : Comparing s sp fc k r rest v) (heq : r.value = s.page) :
    fsmStep v = complete (setSpace sp s.page v) := by
  have hsel := h.selecting
  rw [h.fsmStep_eq, psCheck, h.value, hsel.page_eq, if_pos heq, hsel.spacel_eq]

end Comparing

/-- Attempts that read another value back, fewer than the budget, lead to the start of the next one (R244). -/
theorem AttemptStart.mismatches {rs : List SelectReply} (hgood : ∀ r ∈ rs, r.good s.cfg.val)
    (hne : ∀ r ∈ rs, r.value ≠ s.page) :
    ∀ {k : Nat} {u : State}, AttemptStart s sp fc k (arriving (rs.flatMap (SelectReply.wire s.cfg.val)) ++ rest) u →
      k + rs.length < budget s.cfg.val sp → ∃ v, AttemptStart s sp fc (k + rs.length) rest v := by
  induction rs with
  | nil => exact fun {k u} h _ => ⟨u, h⟩
  | cons r rs ih =>
    intro k u h hk
    rw [List.length_cons] at hk ⊢
    rw [List.flatMap_cons, arriving, List.map_append, List.append_assoc] at h
    have hcompare := h.comparing (hgood r List.mem_cons_self)
    have hnext := hcompare.next_attempt (hne r List.mem_cons_self) (by omega)
    rw [Nat.add_comm rs.length, ← Nat.add_assoc] at hk ⊢
    exact ih (fun r hr => hgood r (List.mem_cons_of_mem _ hr)) (fun r hr => hne r (List.mem_cons_of_mem _ hr)) hnext hk

/-- An attempt whose acknowledge is too short raises `TRUNCATED` in PS_WR_RX (R184, R246). -/
theorem AttemptStart.short_acknowledge {x : Byte} {n : Nibble} {d : List Byte}
    (h : AttemptStart s sp fc k (arriving (replyFrame s.cfg.val x d) ++ rest) u) (hx : goodHeader s.cfg.val x n)
    (hd : d.length < s.cfg.val.wrAckLen) :
    (fsmStep u).fsm = .psWrRx ∧ (fsmStep u).attempt = u.attempt ∧
      ∃ w, w.link.rx = rest ∧ fsmStep (fsmStep u) = raise .truncated w := by
  have hsent := fsmStep_psWrTx h.fsm (txSucceeds_of_drop (j := 0) h.tx rfl)
  have hcfg : (fsmStep u).cfg = s.cfg := (fsmStep_cfg u).trans h.selecting.cfg_eq
  have hfsm : (fsmStep u).fsm = .psWrRx := by rw [hsent]; rfl
  have hrx : (fsmStep u).link.rx = arriving (replyFrame (fsmStep u).cfg.val x d) ++ rest := by
    rw [hcfg, ← h.rx, hsent]
    rfl
  exact ⟨hfsm, by rw [hsent]; rfl, _, rfl,
    fsmStep_psWrRx_truncated hfsm (by rw [hcfg]; exact hx) (by rw [hcfg]; exact hd) hrx⟩

/-- A select of `k + 1` replies, the first `k` of which read another value back, comes to compare the last (R243). -/
theorem exists_comparing_last {rs : List SelectReply} (htx : ∀ x ∈ s.link.tx, x = .ok)
    (hgood : ∀ r ∈ rs, r.good s.cfg.val)
    (hrx : s.link.rx = arriving (rs.flatMap (SelectReply.wire s.cfg.val)) ++ rest) (hlen : rs.length = k + 1)
    (hlast : rs[k]? = some r) (hne : ∀ r ∈ rs.take k, r.value ≠ s.page) (hk : k < budget s.cfg.val sp) :
    ∃ v, Comparing s sp fc k r rest v := by
  have hsplit : rs.take k ++ [r] = rs := by
    have htake : rs.take (k + 1) = rs := List.take_of_length_le hlen.le
    rwa [List.take_add_one, hlast] at htake
  have hcount : (rs.take k).length = k := by rw [List.length_take]; omega
  have hstart := attemptStart_first (sp := sp) (fc := fc) htx
  rw [hrx, ← hsplit, List.flatMap_append, List.flatMap_singleton, arriving, List.map_append, List.append_assoc]
    at hstart
  obtain ⟨u, hu⟩ := AttemptStart.mismatches (fun r hr => hgood r (List.mem_of_mem_take hr)) hne hstart (by omega)
  rw [hcount, Nat.zero_add] at hu
  exact ⟨_, hu.comparing (hgood r (List.mem_of_getElem? hlast))⟩

end Select

/-! ### The statements -/

/-- Settles O22: the mismatches lead to the last comparison, whose outcome decides; what else the two ends record is
`SelectPageSuccess` and the error entry. -/
theorem selectPageRetryBound : Obligations.SelectPageRetryBound := by
  intro s sp fc rs rest hr hf htx hgood hrx
  refine ⟨fun k last hk hlen hlast hne heq => ?matched, fun hlen hne => ?exhausted⟩
  case matched =>
    obtain ⟨v, hv⟩ := exists_comparing_last (fc := fc) htx hgood hrx hlen hlast hne hk
    have hlast := hv.matched heq ▸ hv.reached.step
    have hexec := hlast.exec_of_end hr hf rfl
    have herr : v.err = 0 := hv.reached.err_eq_zero hv.selecting.is_busy
    obtain ⟨hidle, hdone, hbyte, hrlen, -, -, hmain, hsub⟩ := selectPageSuccess s _ sp fc hr hf hexec herr
    exact ⟨_, hexec, hidle, hdone, herr, hv.attempt, hrlen, hbyte, hv.status, hv.ack, hv.rx, hv.out, hmain, hsub⟩
  case exhausted =>
    obtain ⟨hpos, -⟩ := budget_bounds s.cfg sp
    obtain ⟨k, hk⟩ := Nat.exists_eq_add_of_le' hpos
    rw [hk] at hlen
    obtain ⟨v, hv⟩ := exists_comparing_last (sp := sp) (fc := fc) htx hgood hrx hlen
      (List.getElem?_eq_getElem (by omega)) (fun r hr => hne r (List.mem_of_mem_take hr)) (by omega)
    have hstep := hv.exhausted (hne _ (List.getElem_mem _)) hk
    obtain ⟨n, hn⟩ := hv.reached
    have herr : (raise .budgetExhausted v).err ≠ 0 := raise_err_ne_zero _ v
    obtain ⟨hexec, hdone, -, hidle, hphase, hattempt, hreg, hpage, hspace, hrlen, hvm, hvs, hmain, hsub⟩ :=
      select_ends_of_error hr hf hn hstep.symm hv.selecting.is_busy herr
    refine ⟨_, hexec, hidle (show errCode .pageSelect ≠ 1 by decide), hdone, rfl, rfl, ?_, ?_, hpage, hspace, hreg,
      hrlen, hvm, hvs, hmain, hsub, hv.rx, ?_⟩
    · rw [hattempt, hv.attempt, hk]
    · rw [hphase, hv.fsm]; rfl
    · rw [hk]; exact hv.out

/-- Settles O24: an error is the last step of the request's run; the short acknowledge is one, in PS_WR_RX. -/
theorem selectPageInnerError : Obligations.SelectPageInnerError := by
  intro s sp fc hr hf
  refine ⟨fun k u t hu ht hb herr => select_ends_of_error hr hf hu ht hb herr,
    fun rs h n d rest htx hgood hne hlen hh hd hrx => ?truncated⟩
  have hstart := attemptStart_first (sp := sp) (fc := fc) htx
  rw [hrx, arriving, List.map_append, List.append_assoc] at hstart
  obtain ⟨u, hu⟩ := AttemptStart.mismatches hgood hne hstart (by omega)
  rw [Nat.zero_add] at hu
  obtain ⟨hfsm, hsame, w, hrest, hstep⟩ := hu.short_acknowledge hh hd
  obtain ⟨m, hm⟩ := hu.reached.step
  have hb : busy (fsmStep u) = true := busy_of_requestOf (congrArg requestOf hfsm)
  obtain ⟨hexec, hdone, -, hidle, hphase, hattempt, hreg, hpage, hspace, hrlen, hmain, hsub, -, -⟩ :=
    select_ends_of_error hr hf hm hstep.symm hb (raise_err_ne_zero _ w)
  refine ⟨_, hexec, hidle (show errCode .framing ≠ 1 by decide), hdone, rfl, rfl, ?_, ?_, hreg, hpage, hspace, hrlen,
    hmain, hsub, hrest⟩
  · rw [hphase]; exact congrArg fsmCode hfsm
  · rw [hattempt, hsame, hu.attempt]

end Sys2Proof.Machine
end

section
/-! FAULTED and its way out (60_exceptions.md R303): outside reset, no turn of any agent leaves the state. -/
namespace Sys2Proof.Machine

open Sys2Proof

/-- `u` is FAULTED with the error that `s` recorded (R302, R303), and has sent nothing since `s`. -/
structure FaultedAs (s u : State) : Prop where
  fsm : u.fsm = .faulted
  err : u.err = s.err
  cause : u.cause = s.cause
  errReg : u.errReg = s.errReg
  errPage : u.errPage = s.errPage
  errSpace : u.errSpace = s.errSpace
  errPhase : u.errPhase = s.errPhase
  out : u.link.out = s.link.out

namespace FaultedAs

theorem refl {s : State} (h : s.fsm = .faulted) : FaultedAs s s := ⟨h, rfl, rfl, rfl, rfl, rfl, rfl, rfl⟩

/-- FAULTED has no step (R111). -/
theorem fsmStep_eq {s u : State} (h : FaultedAs s u) : fsmStep u = u :=
  fsmStep_of_not_busy (busy_eq_false_iff.mpr (.inr h.fsm))

/-- The partner's acts are on the link, of which only the answers are theirs (R6). -/
theorem partnerStep {s u : State} (h : FaultedAs s u) (act : PartnerAct) : FaultedAs s (partnerStep act u) := by
  cases act <;> exact { h with }

end FaultedAs

/-- No turn outside reset leaves FAULTED: a request is accepted in IDLE alone (R110, R114), and an operand stored or
a word read changes none of the error fields (R67, R115). -/
theorem keptOutsideReset_faultedAs (s : State) : KeptOutsideReset (FaultedAs s) where
  sched _ _ h := { h with }
  fsmStep _ h := h.fsmStep_eq.symm ▸ h
  accept _ _ _ _ _ hidle h := nomatch hidle.symm.trans h.fsm
  drop _ h := { h with }
  storeOperand u a v _ _ h := by
    obtain ⟨_, _, _, _, heq, -⟩ := storeOperand_eq a v u
    rw [heq]
    exact { h with }
  hostRead u a h := by
    obtain ⟨_, _, heq⟩ := hostRead_eq a u
    rw [heq]
    exact { h with }
  partner _ act h := h.partnerStep act

/-- Settles O41: an assertion of reset is excluded, and a release without one has no effect (R340). -/
theorem faultedUntilReset : Obligations.FaultedUntilReset := by
  intro s t hf hr ht hassert
  have hkept : FaultedAs s t := by
    refine (keptOutsideReset_faultedAs s).step (.refl hf) ht (fun j _ hj => absurd hj (hassert j)) fun l _ => ?_
    rw [releaseReset_of_not_inReset (s := { s with sched := l }) hr]
    exact { FaultedAs.refl hf with }
  obtain ⟨hfsm, herr, hcause, hreg, hpage, hspace, hphase, hout⟩ := hkept
  exact ⟨hfsm, herr, hcause, hreg, hpage, hspace, hphase, hout⟩

end Sys2Proof.Machine
end
